-- ==== Sys2Proof/Word.lean ====
section
/-! DEFINITION. The bit-vector types of the block: frame bytes, register values, register addresses, request words. -/

namespace Sys2Proof

/-- One byte of a frame or of the sector buffer (R11, R51). -/
abbrev Byte := BitVec 8

/-- One register value, LBA or sector word (R8, R51). -/
abbrev Word := BitVec 32

/-- One device register address, 6 bits (R90). -/
abbrev RegAddr := BitVec 6

/-- One request word `Q` of the request port (R85, R86). -/
abbrev RequestWord := BitVec 48

end Sys2Proof
end

