-- ==== Sys2Proof/Machine/Codec.lean ====
section
/-! DEFINITION. The Bit-Order Codec (40_codec.md) and little-endian packing (R12): pure functions on bytes. -/

namespace Sys2Proof.Machine

/-- `rev8(b)`: bit `i` of the result is bit `7 - i` of `b` (R100). The first operand of `++` is the most significant,
so the result's bit 7 is `b[0]`. -/
def rev8 (b : Byte) : Byte :=
  b.extractLsb' 0 1 ++ b.extractLsb' 1 1 ++ b.extractLsb' 2 1 ++ b.extractLsb' 3 1 ++
    b.extractLsb' 4 1 ++ b.extractLsb' 5 1 ++ b.extractLsb' 6 1 ++ b.extractLsb' 7 1

/-- `NIB[n]`, the 4-bit reversal of `n` (R101). -/
def nib (n : BitVec 4) : BitVec 4 :=
  match n.toNat with
  | 0x0 => 0x0 | 0x1 => 0x8 | 0x2 => 0x4 | 0x3 => 0xC
  | 0x4 => 0x2 | 0x5 => 0xA | 0x6 => 0x6 | 0x7 => 0xE
  | 0x8 => 0x1 | 0x9 => 0x9 | 0xA => 0x5 | 0xB => 0xD
  | 0xC => 0x3 | 0xD => 0xB | 0xE => 0x7 | _ => 0xF

/-- The source's form of `rev8`: `(NIB[b[3:0]] << 4) | NIB[b[7:4]]` (R101). -/
def rev8ByNibbles (b : Byte) : Byte :=
  ((nib (b.extractLsb' 0 4)).setWidth 8 <<< 4) ||| (nib (b.extractLsb' 4 4)).setWidth 8

/-- `rev8_inplace(buf, n)`: the first `n` bytes of the buffer are reversed, the others stay (R103, whose buffer has
length `n`; log 28). -/
def rev8InPlace : List Byte → Nat → List Byte
  | buf, 0 => buf
  | [], _ + 1 => []
  | b :: rest, n + 1 => rev8 b :: rev8InPlace rest n

/-- `rev8_copy(src, dst, n)`: the first `n` bytes of `dst` become the reversals of those of `src` (R104). The result
is the new `dst`; `src` is unchanged. A buffer shorter than `n` is no legal use and R104 gives no result for it: the
copy stops at the end of the shorter one and the rest of `dst` stays (DESIGN CHOICE; log 28). -/
def rev8Copy : List Byte → List Byte → Nat → List Byte
  | _, dst, 0 => dst
  | [], dst, _ + 1 => dst
  | _ :: _, [], _ + 1 => []
  | b :: src, _ :: dst, n + 1 => rev8 b :: rev8Copy src dst n

/-- `le_bytes(v)` is `[v[7:0], v[15:8], v[23:16], v[31:24]]` (R12). -/
def leBytes (v : Word) : List Byte :=
  [v.extractLsb' 0 8, v.extractLsb' 8 8, v.extractLsb' 16 8, v.extractLsb' 24 8]

/-- `le32(c0, c1, c2, c3)` is `c0 | (c1 << 8) | (c2 << 16) | (c3 << 24)` (R12). -/
def le32 (c0 c1 c2 c3 : Byte) : Word :=
  c0.setWidth 32 ||| (c1.setWidth 32 <<< 8) ||| (c2.setWidth 32 <<< 16) ||| (c3.setWidth 32 <<< 24)

end Sys2Proof.Machine
end

