-- ==== Sys2Proof/Machine/Frame.lean ====
section
/-! DEFINITION. The register transaction frames of the SPI channel (R90 to R93, R126, R129). -/

namespace Sys2Proof.Machine

/-- The transaction type of a read frame, binary 01 (R90). -/
def typeRead : Byte := 1

/-- The transaction type of a write frame, binary 10 (R90). -/
def typeWrite : Byte := 2

/-- The header byte before bit reversal: `h = ((a << 2) | t) mod 256` (R90). -/
def frameHeader (a : RegAddr) (t : Byte) : Byte := (a.setWidth 8 <<< 2) ||| t

/-- The register address a header carries, `h[7:2]` (R90). -/
def headerReg (h : Byte) : RegAddr := h.extractLsb' 2 6

/-- The transaction type a header carries, `h[1:0]` (R90). -/
def headerType (h : Byte) : BitVec 2 := h.extractLsb' 0 2

/-- `ReadFrame(a)`: `[rev8((a << 2) | 1), P_TURNAROUND, 0, 0, 0, 0]` (R91, R126). Only byte 0 passes the codec (C6). -/
def readFrame (turnaround : Byte) (a : RegAddr) : List Byte :=
  [rev8 (frameHeader a typeRead), turnaround, 0, 0, 0, 0]

/-- `WriteFrame(a, v)`: the header and the value's four bytes, little-endian, each byte reversed (R92, R129). -/
def writeFrame (a : RegAddr) (v : Word) : List Byte :=
  (frameHeader a typeWrite :: leBytes v).map rev8

/-- Byte `i` of a byte sequence (R11). A reply always has the length of its frame (R111), so the default is never
read. -/
def byteAt (bs : List Byte) (i : Nat) : Byte := bs.getD i 0

/-- The value a read reply carries: `le32(rev8(rx[2]), rev8(rx[3]), rev8(rx[4]), rev8(rx[5]))`; bytes 0 and 1 are
ignored (R91, R127). -/
def replyValue (rx : List Byte) : Word :=
  le32 (rev8 (byteAt rx 2)) (rev8 (byteAt rx 3)) (rev8 (byteAt rx 4)) (rev8 (byteAt rx 5))

/-- The value a write frame carries in its bytes 1 to 4 (R92). -/
def writeFrameValue (tx : List Byte) : Word :=
  le32 (rev8 (byteAt tx 1)) (rev8 (byteAt tx 2)) (rev8 (byteAt tx 3)) (rev8 (byteAt tx 4))

/-- The reply of a device that answers a read with the value `v`: two bytes the block ignores, then the value's bytes,
each reversed (R77, R91). -/
def readReply (v : Word) : List Byte := 0 :: 0 :: (leBytes v).map rev8

end Sys2Proof.Machine
end

