-- ==== Sys2Proof/Config.lean ====
section
/-! DEFINITION. What is fixed for a model instance: the parameters P_* of R7, which the source leaves to the
implementation, and the free values the rules leave open. -/

namespace Sys2Proof

/-- The three lines of the transport interface (R13): the two handshake lines and the active-low chip-select. -/
inductive ControlLine where
  | hsA
  | hsB
  | csN
  deriving DecidableEq, Repr, Inhabited

/-- The three durations of R7 that a `Delay` event can carry (R13, R217). -/
inductive Duration where
  /-- `P_T_HS`. -/
  | tHs
  /-- `P_T_SETTLE`. -/
  | tSettle
  /-- `P_T_POLL`. -/
  | tPoll
  deriving DecidableEq, Repr, Inhabited

/-- One step of the flash-mode exit sequence. R125 (1): only `Pin` and `Delay` events. The source gives the sequence's
holds no value (N23); by R13 and R217 each is one of the three durations (DEDUCED; log 27). -/
inductive LeaveStep where
  /-- `Pin(L, level)`. -/
  | pin (l : ControlLine) (level : Bool)
  /-- `Delay(t)`, `t` one of the P_T parameters. -/
  | delay (t : Duration)
  deriving DecidableEq, Repr, Inhabited

/-- Clock polarity and phase, `P_SPI_MODE` (R7). No rule reads it. -/
structure SpiMode where
  polarity : Bool
  phase : Bool
  deriving DecidableEq, Repr, Inhabited

/-- The parameters of R7, one field each. Durations are in microseconds and the clock in hertz; the units are the
model's own (DESIGN CHOICE, safe: no rule reads a duration or a frequency; log 16). -/
structure Params where
  /-- `P_REG_CONFIG`. -/
  regConfig : RegAddr
  /-- `P_REG_STATUS`. -/
  regStatus : RegAddr
  /-- `P_REG_COMMAND`. -/
  regCommand : RegAddr
  /-- `P_REG_ADDRESS`. -/
  regAddress : RegAddr
  /-- `P_REG_DATA`. -/
  regData : RegAddr
  /-- `P_BUSY_MASK`, nonzero. -/
  busyMask : Word
  /-- `P_WE_MASK`, nonzero. -/
  weMask : Word
  /-- `P_CMD_READ`. -/
  cmdRead : Word
  /-- `P_CMD_NULL`. -/
  cmdNull : Word
  /-- `P_CMD_WPULSE`. -/
  cmdWPulse : Word
  /-- `P_CMD_E_UNLOCK`. -/
  cmdEUnlock : Word
  /-- `P_CMD_E_CONFIRM`. -/
  cmdEConfirm : Word
  /-- `P_CMD_E_EXEC`. -/
  cmdEExec : Word
  /-- `P_CMD_W_UNLOCK`. -/
  cmdWUnlock : Word
  /-- `P_CMD_W_CONFIRM`. -/
  cmdWConfirm : Word
  /-- `P_CMD_W_EXEC`. -/
  cmdWExec : Word
  /-- `P_TURNAROUND`, the byte as sent on the wire (D6). -/
  turnaround : Byte
  /-- `P_POLL_MAX`, at least 1. -/
  pollMax : Nat
  /-- `P_LEAVE_SEQ` (R125). -/
  leaveSeq : List LeaveStep
  /-- `P_GEOM_SHIFT_LIMIT`, a number or none (R144). -/
  geomShiftLimit : Option Nat
  /-- `P_T_HS`. -/
  tHs : Nat
  /-- `P_T_SETTLE`. -/
  tSettle : Nat
  /-- `P_T_POLL`. -/
  tPoll : Nat
  /-- `P_F_SCLK`. -/
  fSclk : Nat
  /-- `P_SPI_MODE`. -/
  spiMode : SpiMode
  deriving DecidableEq, Repr, Inhabited

/-- The value of a duration parameter. -/
def Params.duration (p : Params) : Duration → Nat
  | .tHs => p.tHs
  | .tSettle => p.tSettle
  | .tPoll => p.tPoll

/-- The level the last `Pin` event on line `l` of a sequence drives, if it has one. -/
def lastLevel (l : ControlLine) : List LeaveStep → Option Bool
  | [] => none
  | .delay _ :: rest => lastLevel l rest
  | .pin m level :: rest =>
    match lastLevel l rest with
    | some v => some v
    | none => if m = l then some level else none

/-- R125 (2) and (3): every line has a `Pin` event, and its last one drives level 1. -/
def leaveSeqAdmissible (seq : List LeaveStep) : Bool :=
  lastLevel .hsA seq == some true && lastLevel .hsB seq == some true && lastLevel .csN seq == some true

/-- The default `P_LEAVE_SEQ` of R125: the ENTER trace reversed with every level inverted. -/
def defaultLeaveSeq : List LeaveStep :=
  [.pin .csN true, .delay .tHs, .pin .hsB false, .pin .hsA false, .delay .tHs,
   .pin .hsB true, .pin .csN true, .delay .tHs, .pin .hsA true]

/-- What R7 and R125 ask of a parameter value: nonzero masks, at least one poll, an admissible exit sequence. -/
def Params.admissible (p : Params) : Bool :=
  p.busyMask != 0 && p.weMask != 0 && decide (1 ≤ p.pollMax) && leaveSeqAdmissible p.leaveSeq

/-- The reference values of R7 (column "reference value") and of 93_implementation_defined.md G1. They are general
knowledge and not normative: only the tests and the witnesses of statements use them. R7 gives no value for
`P_T_SETTLE`, `P_T_POLL`, `P_F_SCLK` and `P_SPI_MODE`; the numbers here are the model's (DESIGN CHOICE, unsafe for a
claim about this one instance; log 5). -/
def Params.reference : Params where
  regConfig := 0x00
  regStatus := 0x04
  regCommand := 0x08
  regAddress := 0x0C
  regData := 0x10
  busyMask := 0x00000001
  weMask := 0x00000008
  cmdRead := 0x00000003
  cmdNull := 0x00000000
  cmdWPulse := 0x00000001
  cmdEUnlock := 0x000000AA
  cmdEConfirm := 0x00000055
  cmdEExec := 0x00000005
  cmdWUnlock := 0x00000055
  cmdWConfirm := 0x000000AA
  cmdWExec := 0x00000004
  turnaround := 0xFF
  pollMax := 3
  leaveSeq := defaultLeaveSeq
  geomShiftLimit := none
  tHs := 50000
  tSettle := 10
  tPoll := 100
  fSclk := 100000
  spiMode := ⟨false, false⟩

/-- The parameters of the instance `State.reset` describes, before the check of `Config.params`. A free value: it has
no body (DESIGN CHOICE, safe; log 4). -/
opaque Config.drawnParams : Params

/-- The parameters of the instance `State.reset` describes: any admissible value (R7, R125), and nothing more can be
proved of it. A drawn value that is not admissible is no instance of the block, and the reference value stands in
for it (DESIGN CHOICE, safe: every admissible value remains possible; log 4). -/
def Config.params : Params :=
  if Config.drawnParams.admissible then Config.drawnParams else Params.reference

/-- The `n`-th free byte: a reply byte the device oracle supplies (R55), or a byte of SB after a transport failure in
RDSEC (U13). It has no body (log 3). -/
opaque Config.freeByte : Nat → Byte

/-- The `n`-th free truth value: what a failed event leaves of the lines (R207), or whether the device is in flash mode
after CLOSE (U6). It has no body (log 10). -/
opaque Config.freeBool : Nat → Bool

end Sys2Proof
end

