-- ==== Sys2Proof/Syntax.lean ====
section
/-! DEFINITION. The instructions: one constructor per row of spec/opcode_table.json, the ten requests of R87 and the
two register transaction frames of R91 and R92; the reasons of a refusal (R89); the lines of the assembler syntax
(R97). -/

namespace Sys2Proof

/-- The rows of the opcode table. The first ten are requests of the request port (R87); the last two are frames of
the SPI channel (R90 to R92). An operand has the width of its field, so it cannot be out of range. -/
inductive Instr where
  /-- OPEN (R118). -/
  | openLink
  /-- CLOSE (R120). -/
  | closeLink
  /-- ENTER (R121). -/
  | enter
  /-- LEAVE (R124). -/
  | leave
  /-- RDREG r (R128). -/
  | rdreg (a : RegAddr)
  /-- WRREG r, v (R131). -/
  | wrreg (a : RegAddr) (v : Word)
  /-- INIT (R160 to R163). -/
  | init
  /-- RDSEC n (R169). -/
  | rdsec (lba : Word)
  /-- WRSEC n (R176). -/
  | wrsec (lba : Word)
  /-- ERASE n (R172). -/
  | erase (lba : Word)
  /-- SPI_RD: the 6-byte read frame of register `a` (R91). -/
  | spiRd (a : RegAddr)
  /-- SPI_WR: the 5-byte write frame of value `v` to register `a` (R92). -/
  | spiWr (a : RegAddr) (v : Word)
  deriving DecidableEq, Repr, Inhabited

/-- Where an instruction's bytes travel: the request port (R85) or the SPI channel (R95). -/
inductive Port where
  | request
  | link
  deriving DecidableEq, Repr, Inhabited

/-- The port of an instruction. -/
def Instr.port : Instr → Port
  | .openLink => .request
  | .closeLink => .request
  | .enter => .request
  | .leave => .request
  | .rdreg _ => .request
  | .wrreg _ _ => .request
  | .init => .request
  | .rdsec _ => .request
  | .wrsec _ => .request
  | .erase _ => .request
  | .spiRd _ => .link
  | .spiWr _ _ => .link

/-- Why a request is refused, in the order the decoder checks (R89). -/
inductive RefuseReason where
  | halted
  | reservedOp
  | nonzeroField
  | precondition
  deriving DecidableEq, Repr, Inhabited

/-- Why a byte sequence on the SPI channel is no frame of the block: header type 0 or 3 (R90, U5), or a length that
does not follow from the header (R95). -/
inductive FrameError where
  | frameType
  | frameLength
  deriving DecidableEq, Repr, Inhabited

/-- The register names of the assembler syntax (R97). -/
inductive RegName where
  | config
  | status
  | command
  | address
  | data
  deriving DecidableEq, Repr, Inhabited

/-- A register operand of a line: a number, or one of the five names (R97). -/
inductive RegOperand where
  | number (n : Nat)
  | named (r : RegName)
  deriving DecidableEq, Repr, Inhabited

/-- One request line of a test program (R97), with the numbers as they are written. -/
inductive AsmLine where
  | openLink
  | closeLink
  | enter
  | leave
  | rdreg (r : RegOperand)
  | wrreg (r : RegOperand) (v : Nat)
  | init
  | rdsec (n : Nat)
  | wrsec (n : Nat)
  | erase (n : Nat)
  deriving DecidableEq, Repr, Inhabited

end Sys2Proof
end

