-- ==== Sys2Proof/WellFormed.lean ====
section
/-! DEFINITION. When a term of the syntax is well formed: the ranges R97 gives the operands of a line. An `Instr` has
typed operands of exactly the width of its fields (R86, R90), so each of its terms is well formed. -/

namespace Sys2Proof

/-- A register operand is one of the five names or a number from 0 to 63 (R97). -/
def RegOperand.wellFormed : RegOperand → Bool
  | .number n => decide (n < 64)
  | .named _ => true

/-- A 32-bit value or LBA is a number from 0 to 2^32 - 1 (R97). -/
def word32WellFormed (n : Nat) : Bool := decide (n < 2 ^ 32)

/-- A line is well formed when each of its operands is in the range R97 gives it. -/
def AsmLine.wellFormed : AsmLine → Bool
  | .openLink => true
  | .closeLink => true
  | .enter => true
  | .leave => true
  | .rdreg r => r.wellFormed
  | .wrreg r v => r.wellFormed && word32WellFormed v
  | .init => true
  | .rdsec n => word32WellFormed n
  | .wrsec n => word32WellFormed n
  | .erase n => word32WellFormed n

/-- The REG operand an instruction carries in `Q[13:8]` or in its frame header: zero where the field is "0" (R87). -/
def Instr.regOperand : Instr → RegAddr
  | .openLink => 0
  | .closeLink => 0
  | .enter => 0
  | .leave => 0
  | .rdreg a => a
  | .wrreg a _ => a
  | .init => 0
  | .rdsec _ => 0
  | .wrsec _ => 0
  | .erase _ => 0
  | .spiRd a => a
  | .spiWr a _ => a

/-- The ARG operand an instruction carries in `Q[47:16]` or in its frame: zero where the field is "0" (R87). -/
def Instr.argOperand : Instr → Word
  | .openLink => 0
  | .closeLink => 0
  | .enter => 0
  | .leave => 0
  | .rdreg _ => 0
  | .wrreg _ v => v
  | .init => 0
  | .rdsec lba => lba
  | .wrsec lba => lba
  | .erase lba => lba
  | .spiRd _ => 0
  | .spiWr _ v => v

/-- Every operand lies in the range of its field: REG from 0 to 63 and ARG from 0 to 2^32 - 1 (R86). -/
def Instr.wellFormed (i : Instr) : Bool :=
  decide (i.regOperand.toNat < 64) && decide (i.argOperand.toNat < 2 ^ 32)

end Sys2Proof
end

