-- ==== Sys2Proof/Decode.lean ====
section
/-! DEFINITION. The decoder of request words (R86, R87, R89), the decoder of frames (R90, R95), both total, and the
encoders of both. -/

namespace Sys2Proof

open Sys2Proof.Machine

/-- OP, `Q[7:0]` (R86). -/
def opField (q : RequestWord) : Byte := q.extractLsb' 0 8

/-- REG, `Q[13:8]` (R86). -/
def regField (q : RequestWord) : RegAddr := q.extractLsb' 8 6

/-- The two bits that must be zero, `Q[15:14]` (R86). -/
def mbzField (q : RequestWord) : BitVec 2 := q.extractLsb' 14 2

/-- ARG, `Q[47:16]` (R86). -/
def argField (q : RequestWord) : Word := q.extractLsb' 16 32

/-- Checks (3) and (4) of R89 for an operation whose REG or ARG field is "0". -/
def zeroFieldsHold (regZero argZero : Bool) (q : RequestWord) : Bool :=
  mbzField q == 0 && (!regZero || regField q == 0) && (!argZero || argField q == 0)

/-- The operation `i` when the fields that must be zero are zero, a refusal otherwise (R89). -/
def withZeroFields (regZero argZero : Bool) (q : RequestWord) (i : Instr) : Except RefuseReason Instr :=
  if zeroFieldsHold regZero argZero q then .ok i else .error .nonzeroField

/-- The decoder of a request word: checks (2), (3) and (4) of R89, on the operation codes of R87. Check (1), Halted,
and check (5), the precondition, read the state and stand in `exec` and `step`. -/
def decodeRequest (q : RequestWord) : Except RefuseReason Instr :=
  match (opField q).toNat with
  | 0x01 => withZeroFields true true q .openLink
  | 0x02 => withZeroFields true true q .closeLink
  | 0x03 => withZeroFields true true q .enter
  | 0x04 => withZeroFields true true q .leave
  | 0x05 => withZeroFields false true q (.rdreg (regField q))
  | 0x06 => withZeroFields false false q (.wrreg (regField q) (argField q))
  | 0x07 => withZeroFields true true q .init
  | 0x08 => withZeroFields true false q (.rdsec (argField q))
  | 0x09 => withZeroFields true false q (.wrsec (argField q))
  | 0x0A => withZeroFields true false q (.erase (argField q))
  | _ => .error .reservedOp

/-- A request word carried as bytes: six, little-endian (R86). -/
def requestBytes (q : RequestWord) : List Byte :=
  [q.extractLsb' 0 8, q.extractLsb' 8 8, q.extractLsb' 16 8, q.extractLsb' 24 8, q.extractLsb' 32 8,
   q.extractLsb' 40 8]

/-- The request word six bytes carry: byte 0 is `Q[7:0]` (R86). -/
def requestOfBytes (b0 b1 b2 b3 b4 b5 : Byte) : RequestWord := b5 ++ b4 ++ b3 ++ b2 ++ b1 ++ b0

/-- The decoder of a frame. The header `h = rev8(tx[0])` gives the type and the register address (R90), the length
follows from the type (R95), and a write frame's bytes 1 to 4 give the value (R92). Bytes 1 to 5 of a read frame carry
no operand and are not read, as in R76 (log 8). -/
def decodeFrame (tx : List Byte) : Except FrameError Instr :=
  match (headerType (rev8 (byteAt tx 0))).toNat with
  | 1 => if tx.length = 6 then .ok (.spiRd (headerReg (rev8 (byteAt tx 0)))) else .error .frameLength
  | 2 =>
    if tx.length = 5 then .ok (.spiWr (headerReg (rev8 (byteAt tx 0))) (writeFrameValue tx)) else .error .frameLength
  | _ => .error .frameType

/-- Why bytes presented on a port are no instruction. -/
inductive DecodeError where
  /-- The request decoder's refusal (R89). -/
  | request (r : RefuseReason)
  /-- A request is six bytes, no more and no fewer (R86). -/
  | requestLength
  /-- Not a frame of the block (R90, R95). -/
  | frame (e : FrameError)
  deriving DecidableEq, Repr

/-- The decoder on any bytes of either port. -/
def decode (port : Port) (bytes : List Byte) : Except DecodeError Instr :=
  match port with
  | .request =>
    match bytes with
    | [b0, b1, b2, b3, b4, b5] =>
      match decodeRequest (requestOfBytes b0 b1 b2 b3 b4 b5) with
      | .ok i => .ok i
      | .error r => .error (.request r)
    | _ => .error .requestLength
  | .link =>
    match decodeFrame bytes with
    | .ok i => .ok i
    | .error e => .error (.frame e)

/-- The operation code of a request (R87); the two frames have none, and 0 is a reserved code. -/
def Instr.opCode : Instr → Byte
  | .openLink => 0x01
  | .closeLink => 0x02
  | .enter => 0x03
  | .leave => 0x04
  | .rdreg _ => 0x05
  | .wrreg _ _ => 0x06
  | .init => 0x07
  | .rdsec _ => 0x08
  | .wrsec _ => 0x09
  | .erase _ => 0x0A
  | .spiRd _ => 0x00
  | .spiWr _ _ => 0x00

/-- The request word of an operation: ARG, two zero bits, REG, OP (R86). -/
def encodeRequest (i : Instr) : RequestWord :=
  i.argOperand ++ (0 : BitVec 2) ++ i.regOperand ++ i.opCode

/-- The bytes of an instruction on its port: six request bytes (R86), or a frame (R91, R92). -/
def encode (turnaround : Byte) (i : Instr) : List Byte :=
  match i with
  | .spiRd a => readFrame turnaround a
  | .spiWr a v => writeFrame a v
  | _ => requestBytes (encodeRequest i)

/-- A frame whose header byte, before reversal, is `h`, and whose other bytes are zero: six bytes, or five for the
write type (R95). -/
def frameOfHeader (h : Byte) : List Byte :=
  if headerType h = 2 then [rev8 h, 0, 0, 0, 0] else [rev8 h, 0, 0, 0, 0, 0]

/-- What the decoder reads from an instruction whose bits, numbered as the opcode table numbers them, are `w`. The
table gives a frame row 8 bits, the header byte `h = rev8(tx[0])`, and a request row 48 bits. -/
def decodeTableWord (nbits w : Nat) : Option Instr :=
  if nbits ≤ 8 then (decode .link (frameOfHeader (BitVec.ofNat 8 w))).toOption
  else (decode .request (requestBytes (BitVec.ofNat 48 w))).toOption

end Sys2Proof
end

