-- ==== Sys2Proof/Machine/Geometry.lean ====
section
/-! DEFINITION. The Geometry Decoder (42_geometry.md): a pure function from the raw configuration word to a flash
geometry, or to no geometry (InvalidGeometry). -/

namespace Sys2Proof.Machine

/-- The geometry descriptor (R36). The counts are exact integers, as in R144 (log 21). -/
structure FlashGeometry where
  raw : Word
  controllerType : BitVec 2
  blockType : BitVec 2
  pageSize : Nat
  pagesCount : Nat
  blocksCount : Nat
  fsBlocks : Nat
  deriving DecidableEq, Repr

/-- A cell of the table of R143. -/
inductive GeometryCell where
  /-- No geometry. -/
  | invalid
  /-- A cell with a constant block count. -/
  | fixed (pages blocks fs : Nat)
  /-- A cell whose block count is `1 << (extra + 23) >> shift` (R144). -/
  | formula (pages shift fs : Nat)
  deriving DecidableEq, Repr

/-- `controllerType = raw[18:17]` (R141). -/
def controllerTypeOf (raw : Word) : BitVec 2 := raw.extractLsb' 17 2

/-- `blockType = raw[5:4]` (R141). -/
def blockTypeOf (raw : Word) : BitVec 2 := raw.extractLsb' 4 2

/-- `extra = raw[20:19] + raw[24:21]`, an exact sum (R142). -/
def extraOf (raw : Word) : Nat := (raw.extractLsb' 19 2).toNat + (raw.extractLsb' 21 4).toNat

/-- The lookup table over `(controllerType, blockType)`, all sixteen cells (R143). -/
def geometryCell (c b : BitVec 2) : GeometryCell :=
  match c.toNat, b.toNat with
  | 0, 1 => .fixed 0x20 0x400 0x3E0
  | 0, 2 => .fixed 0x20 0x800 0x7C0
  | 0, 3 => .fixed 0x20 0x1000 0xF80
  | 1, 1 => .fixed 0x20 0x400 0x3E0
  | 1, 2 => .formula 0x100 17 0x1E0
  | 1, 3 => .formula 0x200 18 0xF0
  | 2, 1 => .fixed 0x20 0x1000 0xF80
  | 2, 2 => .formula 0x100 17 0x1E0
  | 2, 3 => .formula 0x200 18 0xF0
  | _, _ => .invalid

/-- The formula of R144 in exact integer arithmetic. -/
def formulaBlocks (extra shift : Nat) : Nat := (1 <<< (extra + 23)) >>> shift

/-- R144: with `P_GEOM_SHIFT_LIMIT = N`, a formula cell with `extra + 23 ≥ N` is refused. -/
def overShiftLimit (limit : Option Nat) (extra : Nat) : Bool :=
  match limit with
  | none => false
  | some n => decide (n ≤ extra + 23)

/-- `decode(raw)` (R140); `none` is InvalidGeometry. -/
def decodeGeometry (limit : Option Nat) (raw : Word) : Option FlashGeometry :=
  if raw = 0 then none
  else
    match geometryCell (controllerTypeOf raw) (blockTypeOf raw) with
    | .invalid => none
    | .fixed pages blocks fs =>
      some ⟨raw, controllerTypeOf raw, blockTypeOf raw, 512, pages, blocks, fs⟩
    | .formula pages shift fs =>
      if overShiftLimit limit (extraOf raw) then none
      else
        some ⟨raw, controllerTypeOf raw, blockTypeOf raw, 512, pages, formulaBlocks (extraOf raw) shift, fs⟩

end Sys2Proof.Machine
end

