-- ==== Sys2Proof/Machine/Memory.lean ====
section
/-! DEFINITION. Byte memories as sparse lists of (address, byte) in one canonical form, addresses strictly rising: the
sector buffer SB (R27) and the NAND array of the reference device model (R75). -/

namespace Sys2Proof.Machine

/-- A sparse byte memory. What an unlisted address reads as is said where the memory is used: in SB it has no value
(R27), in the reference device's array it holds the erased byte (R75). -/
abbrev Memory := List Host.Cell

/-- The canonical form: addresses strictly rising. -/
def Memory.wf : Memory → Bool
  | [] => true
  | [_] => true
  | c :: d :: rest => decide (c.1 < d.1) && Memory.wf (d :: rest)

/-- The byte listed at an address, if one is. -/
def Memory.read (m : Memory) (a : Nat) : Option Byte :=
  match m with
  | [] => none
  | c :: rest => if c.1 = a then some c.2 else Memory.read rest a

/-- List byte `b` at address `a`, keeping the addresses strictly rising. -/
def Memory.write (m : Memory) (a : Nat) (b : Byte) : Memory :=
  match m with
  | [] => [(a, b)]
  | c :: rest =>
    if a < c.1 then (a, b) :: c :: rest
    else if a = c.1 then (a, b) :: rest
    else c :: Memory.write rest a b

/-- Unlist every address that `p` selects. -/
def Memory.remove (m : Memory) (p : Nat → Bool) : Memory := m.filter fun c => !p c.1

/-- List the bytes at `a`, `a + 1`, ... in order. -/
def Memory.writeBytes (m : Memory) (a : Nat) : List Byte → Memory
  | [] => m
  | b :: rest => Memory.writeBytes (m.write a b) (a + 1) rest

/-- The bytes at `a` to `a + n - 1`, if every one of them is listed. -/
def Memory.readBytes (m : Memory) (a : Nat) : Nat → Option (List Byte)
  | 0 => some []
  | n + 1 =>
    match m.read a, Memory.readBytes m (a + 1) n with
    | some b, some rest => some (b :: rest)
    | _, _ => none

/-- The byte at `a` in a memory whose unlisted addresses hold `dflt`. -/
def Memory.readOr (dflt : Byte) (m : Memory) (a : Nat) : Byte := (m.read a).getD dflt

/-- Write `b` at `a` in a memory whose unlisted addresses hold `dflt`: writing `dflt` unlists the address. -/
def Memory.writeOr (dflt : Byte) (m : Memory) (a : Nat) (b : Byte) : Memory :=
  if b = dflt then m.remove (fun x => x == a) else m.write a b

/-- Write the bytes at `a`, `a + 1`, ... in a memory whose unlisted addresses hold `dflt`. -/
def Memory.writeBytesOr (dflt : Byte) (m : Memory) (a : Nat) : List Byte → Memory
  | [] => m
  | b :: rest => Memory.writeBytesOr dflt (Memory.writeOr dflt m a b) (a + 1) rest

/-- The number of bytes of SB and of a sector: 512 data bytes, then 16 spare bytes (R8, R27). -/
def sectorBytes : Nat := 528

/-- The form of SB: canonical, and no address outside 0 to 527 (R27, R45). -/
def sbWf (m : Memory) : Bool := m.wf && m.all fun c => decide (c.1 < sectorBytes)

/-- Every byte of SB has a value (R174). -/
def sbFull (m : Memory) : Bool := (List.range sectorBytes).all fun a => (m.read a).isSome

end Sys2Proof.Machine
end

