-- ==== Sys2Proof/Machine/State.lean ====
section
/-! DEFINITION. The state of the block (10_state.md), of the agents around it (R5), and the observations of a run, all
plain data; the reasons a step can stop; the state after reset (R44, R230). -/

namespace Sys2Proof.Machine

/-- The direction of a line (R22). -/
inductive PinDir where
  | unconfigured
  | output
  deriving DecidableEq, Repr

/-- One line: its direction and its level; `none` is the spec's "no value" (R22). -/
structure Pin where
  dir : PinDir
  level : Option Bool
  deriving DecidableEq, Repr

/-- The three lines (R22). -/
structure Pins where
  hsA : Pin
  hsB : Pin
  csN : Pin
  deriving DecidableEq, Repr

/-- One externally visible action of the block (R13). -/
inductive BusEvent where
  /-- `PinDir(L, Output)`. -/
  | pinDir (l : ControlLine)
  /-- `Pin(L, level)`. -/
  | pin (l : ControlLine) (level : Bool)
  /-- `Delay(t)`. -/
  | delay (t : Nat)
  /-- `ChanOpen(f)`. -/
  | chanOpen (f : Nat)
  /-- `ChanClose`. -/
  | chanClose
  /-- `Xfer(tx) -> rx`; a transfer that failed has the reply `[]`. -/
  | xfer (tx rx : List Byte)
  deriving DecidableEq, Repr

/-- The sequencer state (R25). -/
inductive Seq where
  | idle
  | run (op : Instr)
  deriving DecidableEq, Repr

/-- The datapath latches of a running request (R32); `none` is the spec's "no value". -/
structure Latches where
  /-- The frame being sent. -/
  tx : Option (List Byte)
  /-- The reply. -/
  rx : Option (List Byte)
  /-- The poll counter `p` of wait-ready. -/
  poll : Option Nat
  /-- The word index `i` of a sector transfer. -/
  word : Option Nat
  /-- The latched register operand. -/
  reg : Option RegAddr
  /-- The latched argument. -/
  arg : Option Word
  /-- The value held between the read and the write of a read-modify-write. -/
  held : Option Word
  deriving DecidableEq, Repr

/-- The stage of a busy-wait (R164). -/
inductive Stage where
  | read
  | erase
  | writeData
  | writeAddress
  | writeExecute
  deriving DecidableEq, Repr

/-- What an operation can raise (R14, R200). -/
inductive Error where
  | timeout (stage : Stage)
  | invalidGeometry
  | transportFailure
  deriving DecidableEq, Repr

/-- The transport's answer to one bus event (R5, R94). -/
inductive Answer where
  /-- The action completes. -/
  | completes
  /-- The action fails (R207). -/
  | fails
  /-- The action never completes (U16). -/
  | never
  /-- RST is asserted before the action begins (R230). -/
  | reset
  deriving DecidableEq, Repr

/-- The state of the reference device model (R75), with its parameters. `pulses` counts the write-command pulses since
the last pointer reset (R79 (5)); `busyScript` is the status script of 95_test_vectors.md, `true` for busy (log 15). -/
structure Rdm where
  cfg0 : Word
  glitch : Word
  busy : Nat
  erased : Byte
  /-- `reg[0..63]`. -/
  reg : List Word
  fm : Bool
  firstCfg : Bool
  busyLeft : Nat
  data : Word
  ptr : Nat
  /-- The internal page buffer, 528 bytes. -/
  pb : List Byte
  /-- The last two command values, oldest first. -/
  hist : List Word
  /-- The NAND array: sector `t` has its byte `j` at address `528 t + j`; an unlisted byte is `erased`. -/
  array : Memory
  pulses : Nat
  busyScript : List Bool
  deriving DecidableEq, Repr

/-- The target device (R5). -/
inductive Device where
  /-- The unconstrained oracle (R55): the reply bytes already decided, oldest first; after them each reply byte is a
  free value. -/
  | oracle (pending : List Byte)
  /-- The reference device model (R75 to R80). -/
  | rdm (r : Rdm)
  deriving DecidableEq, Repr

/-- One action of the host, or the reset input (R5, R85, R27, R34, R230). -/
inductive Input where
  /-- Present a request word on the request port. -/
  | request (q : RequestWord)
  /-- Put a frame on the SPI channel through the Register Link (log 7). -/
  | frame (tx : List Byte)
  /-- Write bytes to SB from an offset. -/
  | loadSB (off : Nat) (bytes : List Byte)
  /-- Read bytes of SB from an offset. -/
  | readSB (off n : Nat)
  /-- Read STAT. -/
  | readStat
  /-- Read RESULT. -/
  | readResult
  /-- Read VALUE. -/
  | readValue
  /-- Read the fields of the cached geometry. -/
  | readGeometry
  /-- Assert and release RST. -/
  | rst
  deriving DecidableEq, Repr

/-- What the host read last (R34). -/
inductive Seen where
  /-- STAT: its low byte, and RESULT, which has no value before the first request ends. -/
  | stat (low : Byte) (result : Option Byte)
  | result (r : Byte)
  | value (v : Word)
  | bytes (bs : List Byte)
  | geometry (g : FlashGeometry)
  deriving DecidableEq, Repr

/-- The state. The first twelve fields are the block's (R20 to R32). -/
structure State where
  /-- `link_open` (R21). -/
  linkOpen : Bool
  /-- `pin[L]` (R22). -/
  pins : Pins
  /-- `initialized` (R23). -/
  initialized : Bool
  /-- `geometry` (R24). -/
  geometry : Option FlashGeometry
  /-- `seq` (R25). -/
  seq : Seq
  /-- `step`, the sequencer step counter (R26). -/
  stepIdx : Nat
  /-- `SB` (R27); an unlisted address has no value. -/
  sb : Memory
  /-- `RESULT` (R28); `none` is the spec's "no value". -/
  result : Option Byte
  /-- `VALUE` (R29); `none` is the spec's "no value". -/
  value : Option Word
  /-- `REFUSED` (R30). -/
  refused : Bool
  /-- `HALTED` (R31). -/
  halted : Bool
  /-- The datapath latches (R32). -/
  latches : Latches
  /-- The parameters of the instance (R7, R43); nothing writes them. -/
  params : Params
  /-- The target device (R5). -/
  device : Device
  /-- The transport's pending answers, one per bus event; with none pending an action completes (log 2). -/
  answers : List Answer
  /-- How many free values were drawn (log 3). -/
  draws : Nat
  /-- The host's pending inputs, oldest first (log 9). -/
  inputs : List Input
  /-- The bus events of the request last accepted, oldest first (R13; log 14). -/
  trace : List BusEvent
  /-- Why the last request was refused, if it was (R205; log 14). -/
  refusal : Option RefuseReason
  /-- What the host read last (log 14). -/
  seen : Option Seen
  deriving DecidableEq, Repr

/-- Why the machine stops with a fault. Each is safe: the machine stops where the spec gives no value or no move. -/
inductive Fault where
  /-- Raised by a host read of an SB byte that nothing has written (R27, U11). Safe. -/
  | sbByteNoValue
  /-- Raised by a host access to SB outside bytes 0 to 527, which do not exist (R27, R45). Safe. -/
  | sbOutOfRange
  /-- Raised by a host read of RESULT before any request has written it (R28, U14). Safe. -/
  | resultNoValue
  /-- Raised by a host read of VALUE before any request has written it (R29, U14). Safe. -/
  | valueNoValue
  /-- Raised by a host read of the geometry fields while no geometry is cached (R34). Safe. -/
  | geometryNoValue
  /-- Raised by a step in which the running request's transport action never completes and the host has no move but to
  wait (U16, R88). Safe. -/
  | stuck
  deriving DecidableEq, Repr

/-- Why the machine gives an input no meaning. -/
inductive Refusal where
  /-- Raised by an arm of `exec` for an instruction that has no meaning yet. Safe. -/
  | notModelled (mnemonic : String)
  /-- Raised by a step on a frame whose header type is 0 or 3 (R90, U5). Safe. -/
  | frameType
  /-- Raised by a step on a frame whose length does not follow from its header (R95). Safe. -/
  | frameLength
  deriving DecidableEq, Repr

/-- A line before the first OPEN: not configured, no level (R44). -/
def Pin.atReset : Pin := ⟨.unconfigured, none⟩

/-- The latches after reset: no value (R44). -/
def Latches.atReset : Latches := ⟨none, none, none, none, none, none, none⟩

/-- The block right after reset (R44, R230), for an instance with parameters `p` and a device in state `d`; nothing is
pending and nothing has been observed. -/
def State.resetWith (p : Params) (d : Device) : State where
  linkOpen := false
  pins := ⟨Pin.atReset, Pin.atReset, Pin.atReset⟩
  initialized := false
  geometry := none
  seq := .idle
  stepIdx := 0
  sb := []
  result := none
  value := none
  refused := false
  halted := false
  latches := Latches.atReset
  params := p
  device := d
  answers := []
  draws := 0
  inputs := []
  trace := []
  refusal := none
  seen := none

/-- The machine right after reset: any admissible parameters, the unconstrained device. -/
def State.reset : State := State.resetWith Config.params (.oracle [])

end Sys2Proof.Machine
end

