-- ==== Sys2Proof/Machine/Rdm.lean ====
section
/-! DEFINITION. The reference device model RDM (R75 to R80): what the device answers to a frame and how its state
changes. It is informative in the spec; a claim that rests on it names `Device.rdm` (R80, D35). -/

namespace Sys2Proof.Machine

/-- The RDM at its own reset (R75), for its four parameters. RDM_CFG0 has the P_WE_MASK bits clear, whatever `cfg0`
has there. -/
def Rdm.atReset (p : Params) (cfg0 glitch : Word) (busy : Nat) (erased : Byte) : Rdm where
  cfg0 := cfg0 &&& ~~~p.weMask
  glitch := glitch
  busy := busy
  erased := erased
  reg := (List.replicate 64 (0 : Word)).set p.regConfig.toNat (cfg0 &&& ~~~p.weMask)
  fm := false
  firstCfg := false
  busyLeft := 0
  data := 0
  ptr := 0
  pb := List.replicate sectorBytes erased
  hist := []
  array := []
  pulses := 0
  busyScript := []

/-- `reg[a]` (R75). -/
def Rdm.regAt (r : Rdm) (a : RegAddr) : Word := r.reg.getD a.toNat 0

/-- `reg[a] <- v` (R75). -/
def Rdm.setReg (r : Rdm) (a : RegAddr) (v : Word) : Rdm := { r with reg := r.reg.set a.toNat v }

/-- Byte `j` of sector `t` of the array, `A[t][j]` (R75). -/
def Rdm.arrayByte (r : Rdm) (t j : Nat) : Byte := r.array.readOr r.erased (t * sectorBytes + j)

/-- The 528 bytes of sector `t` (R75). -/
def Rdm.sector (r : Rdm) (t : Nat) : List Byte := (List.range sectorBytes).map (r.arrayByte t)

/-- `A[t] <- bytes` (R75). -/
def Rdm.setSector (r : Rdm) (t : Nat) (bytes : List Byte) : Rdm :=
  { r with array := Memory.writeBytesOr r.erased r.array (t * sectorBytes) bytes }

/-- The sector the address register holds: `s = reg[P_REG_ADDRESS] >> 9` (R79). -/
def Rdm.addressedSector (p : Params) (r : Rdm) : Nat := (r.regAt p.regAddress >>> 9).toNat

/-- `spb`, the pages_count of `decode(RDM_CFG0)` (R79). When RDM_CFG0 does not decode there is no erase block, and
the addressed sector stands alone (DESIGN CHOICE, unsafe; log 15). -/
def Rdm.sectorsPerBlock (p : Params) (r : Rdm) : Nat :=
  match decodeGeometry p.geomShiftLimit r.cfg0 with
  | some g => g.pagesCount
  | none => 1

/-- Every sector of the erase block of sector `s` becomes erased (R79 (1)). -/
def Rdm.eraseBlock (r : Rdm) (spb s : Nat) : Rdm :=
  { r with array := r.array.remove fun a => a / sectorBytes / spb == s / spb }

/-- Programming clears bits: `A[s][j] <- A[s][j] & PB[j]` (R79 (2)). -/
def Rdm.program (r : Rdm) (s : Nat) : Rdm :=
  r.setSector s ((List.range sectorBytes).map fun j => r.arrayByte s j &&& byteAt r.pb j)

/-- The write/erase-enable bit is set in the configuration register (R79). -/
def Rdm.writeEnabled (p : Params) (r : Rdm) : Bool := (r.regAt p.regConfig &&& p.weMask) != 0

/-- `hist <- hist ++ [v]`, keeping the last two (R79). -/
def Rdm.remember (r : Rdm) (v : Word) : Rdm := { r with hist := (r.hist ++ [v]).drop ((r.hist.length + 1) - 2) }

/-- The null command: the next word of PB moves to the data latch (R79 (4)). -/
def Rdm.nullCommand (r : Rdm) : Rdm :=
  if r.ptr + 4 ≤ sectorBytes then
    { r with
      data := le32 (byteAt r.pb r.ptr) (byteAt r.pb (r.ptr + 1)) (byteAt r.pb (r.ptr + 2)) (byteAt r.pb (r.ptr + 3))
      ptr := r.ptr + 4 }
  else r

/-- Bytes `o` to `o + bs.length - 1` of `buf` become `bs`. -/
def patchBytes (buf : List Byte) (o : Nat) (bs : List Byte) : List Byte :=
  buf.take o ++ bs ++ buf.drop (o + bs.length)

/-- The write-command pulse: the data latch moves into PB; the 132nd pulse since the last pointer reset makes the
device busy (R79 (5)). -/
def Rdm.writePulse (r : Rdm) : Rdm :=
  let stored :=
    if r.ptr + 4 ≤ sectorBytes then { r with pb := patchBytes r.pb r.ptr (leBytes r.data), ptr := r.ptr + 4 } else r
  { stored with
    pulses := r.pulses + 1
    busyLeft := if r.pulses + 1 = 132 then r.busy else r.busyLeft }

/-- The effect of the command value `v`, the first case of R79 that matches. -/
def Rdm.command (p : Params) (r : Rdm) (v : Word) : Rdm :=
  let s := r.addressedSector p
  let done :=
    if v = p.cmdEExec ∧ r.hist = [p.cmdEUnlock, p.cmdEConfirm] ∧ r.writeEnabled p then
      { r.eraseBlock (r.sectorsPerBlock p) s with busyLeft := r.busy }
    else if v = p.cmdWExec ∧ r.hist = [p.cmdWUnlock, p.cmdWConfirm] ∧ r.writeEnabled p then
      { r.program s with busyLeft := r.busy }
    else if v = p.cmdRead then { r with pb := r.sector s, busyLeft := r.busy }
    else if v = p.cmdNull then r.nullCommand
    else if v = p.cmdWPulse then r.writePulse
    else r
  done.remember v

/-- A register write (R78). A write of the address register below 528 is a pointer reset (log 15). -/
def Rdm.writeReg (p : Params) (r : Rdm) (a : RegAddr) (v : Word) : Rdm :=
  if a = p.regStatus then r.setReg a (r.regAt a &&& ~~~v)
  else if a = p.regCommand then r.command p v
  else if a = p.regAddress then
    if v.toNat < sectorBytes then { r.setReg a v with ptr := v.toNat, pulses := 0 } else r.setReg a v
  else if a = p.regData then { r with data := v }
  else r.setReg a v

/-- The busy bit of the next status read, and the device after it: the status script first (95_test_vectors.md), then
`busy_left` (R77). -/
def Rdm.pollBusy (r : Rdm) : Bool × Rdm :=
  match r.busyScript with
  | b :: rest => (b, { r with busyScript := rest })
  | [] => if 0 < r.busyLeft then (true, { r with busyLeft := r.busyLeft - 1 }) else (false, r)

/-- Any read of the configuration register clears `first_cfg` (R77). -/
def Rdm.seeConfigRead (p : Params) (r : Rdm) (a : RegAddr) : Rdm :=
  if a = p.regConfig then { r with firstCfg := false } else r

/-- A register read: the value and the device after it (R77). -/
def Rdm.readReg (p : Params) (r : Rdm) (a : RegAddr) : Word × Rdm :=
  if a = p.regConfig ∧ r.firstCfg then (r.glitch, r.seeConfigRead p a)
  else if a = p.regStatus then
    let (busy, r') := r.pollBusy
    (if busy then r.regAt a ||| p.busyMask else r.regAt a &&& ~~~p.busyMask, r'.seeConfigRead p a)
  else if a = p.regData then (r.data, r.seeConfigRead p a)
  else (r.regAt a, r.seeConfigRead p a)

/-- The RDM's answer to a frame: the reply bytes and the device after it (R76 to R78). Outside flash mode, and for a
byte sequence that is no frame, every reply byte is 0 and nothing changes. -/
def Rdm.transact (p : Params) (r : Rdm) (tx : List Byte) : List Byte × Rdm :=
  if r.fm then
    match decodeFrame tx with
    | .ok (.spiRd a) =>
      let (v, r') := r.readReg p a
      (readReply v, r')
    | .ok (.spiWr a v) => (List.replicate 5 0, r.writeReg p a v)
    | _ => (List.replicate tx.length 0, r)
  else (List.replicate tx.length 0, r)

/-- The block completed the ENTER sequence (R76). -/
def Rdm.entered (r : Rdm) : Rdm := { r with fm := true, firstCfg := true }

/-- The block completed the LEAVE sequence (R76). -/
def Rdm.left (r : Rdm) : Rdm := { r with fm := false }

end Sys2Proof.Machine
end

