-- ==== Sys2Proof/Machine/Device.lean ====
section
/-! DEFINITION. What the target device answers to a transfer (R55), whichever device the state holds. -/

namespace Sys2Proof.Machine

/-- The device's answer to one transfer: the reply bytes, the device afterwards, and how many free values have been
drawn. -/
structure Reply where
  bytes : List Byte
  device : Device
  draws : Nat
  deriving DecidableEq, Repr

/-- `n` reply bytes of the oracle: first the bytes already decided, then free bytes (R55; log 3). -/
def oracleReply : Nat → List Byte → Nat → Reply
  | 0, pending, k => ⟨[], .oracle pending, k⟩
  | n + 1, b :: pending, k =>
    let r := oracleReply n pending k
    ⟨b :: r.bytes, r.device, r.draws⟩
  | n + 1, [], k =>
    let r := oracleReply n [] (k + 1)
    ⟨Config.freeByte k :: r.bytes, r.device, r.draws⟩

/-- The device's answer to a transfer of the bytes `tx` (R55): as many reply bytes as were sent (R13). -/
def Device.respond (p : Params) (tx : List Byte) (d : Device) (draws : Nat) : Reply :=
  match d with
  | .oracle pending => oracleReply tx.length pending draws
  | .rdm r => ⟨(r.transact p tx).1, .rdm (r.transact p tx).2, draws⟩

/-- The device after the block completed the ENTER sequence (R66, R76). -/
def Device.entered : Device → Device
  | .oracle pending => .oracle pending
  | .rdm r => .rdm r.entered

/-- The device after the block completed the LEAVE sequence (R66, R76). -/
def Device.left : Device → Device
  | .oracle pending => .oracle pending
  | .rdm r => .rdm r.left

/-- The device after CLOSE, which sends it no exit sequence: in flash mode or not, as `free` says (U6, R120). -/
def Device.closed (free : Bool) : Device → Device
  | .oracle pending => .oracle pending
  | .rdm r => .rdm { r with fm := free }

/-- The device after a transport failure or after a reset during a request: nothing is known of it any more, so from
then on it answers anything (R207, R249, U3; log 12). The oracle answers anything as it is. -/
def Device.lost : Device → Device
  | .oracle pending => .oracle pending
  | .rdm _ => .oracle []

end Sys2Proof.Machine
end

