-- ==== Sys2Proof/Machine/Flags.lean ====
section
/-! DEFINITION. The flag-like state (R35): result codes (R200), the status word STAT (R34). -/

namespace Sys2Proof.Machine

/-- RESULT of a request that completed (R200). -/
def codeOk : Byte := 0x00

/-- RESULT of a refused request (R200, R205). -/
def codeRefused : Byte := 0xF0

/-- The timeout code of each stage (R200). -/
def Stage.code : Stage → Byte
  | .read => 0x01
  | .erase => 0x02
  | .writeData => 0x03
  | .writeAddress => 0x04
  | .writeExecute => 0x05

/-- The result code of an error (R200). -/
def Error.code : Error → Byte
  | .timeout stage => stage.code
  | .invalidGeometry => 0x10
  | .transportFailure => 0x20

/-- The values ever written to RESULT (R200). -/
def resultCodes : List Byte := [0x00, 0x01, 0x02, 0x03, 0x04, 0x05, 0x10, 0x20, 0xF0]

/-- The sequencer is running a request: STAT.BUSY (R34). -/
def State.busy (s : State) : Bool := s.seq != .idle

/-- One bit of STAT at a position. -/
def statBit (b : Bool) (i : Nat) : Byte := if b then 1#8 <<< i else 0

/-- STAT[7:0]: BUSY, LINK_OPEN, INITIALIZED, REFUSED, HALTED in bits 0 to 4, bits 7:5 zero (R34). -/
def State.statLow (s : State) : Byte :=
  statBit s.busy 0 ||| statBit s.linkOpen 1 ||| statBit s.initialized 2 ||| statBit s.refused 3 ||| statBit s.halted 4

/-- STAT, 16 bits, once RESULT has a value: RESULT in bits 15:8 (R34). -/
def State.stat (s : State) : Option (BitVec 16) := s.result.map fun r => r ++ s.statLow

end Sys2Proof.Machine
end

