-- ==== Sys2Proof/Machine/Operands.lean ====
section
/-! DEFINITION. What the operands of the sector requests name: device byte addresses (R46), sector words (R49), the
erase block of an LBA (R175). -/

namespace Sys2Proof.Machine

/-- The byte address of a sector: `(lba << 9) mod 2^32` (R46). -/
def sectorAddress (lba : Word) : Word := lba <<< 9

/-- The number of words of a sector: 128 data words, then 4 spare words (R8, R49). -/
def sectorWords : Nat := 132

/-- The byte of SB at an offset. WRSEC reads it only when every byte has a value (R174), so the default is never read
(DEDUCED, safe; log 18). -/
def sbByte (sb : Memory) (a : Nat) : Byte := (sb.read a).getD 0

/-- Word `i` of a sector transfer: `le32(SB[4i], SB[4i+1], SB[4i+2], SB[4i+3])` (R49). -/
def sbWord (sb : Memory) (i : Nat) : Word :=
  le32 (sbByte sb (4 * i)) (sbByte sb (4 * i + 1)) (sbByte sb (4 * i + 2)) (sbByte sb (4 * i + 3))

/-- `MemWrite(SB, 4i, 4, le_bytes(w))` (R49, R169). -/
def sbPutWord (sb : Memory) (i : Nat) (w : Word) : Memory := sb.writeBytes (4 * i) (leBytes w)

/-- The LBA is the first sector of its erase block: `lba mod spb = 0` with `spb = geometry.pages_count` (R150, R175). -/
def firstOfBlock (g : Option FlashGeometry) (lba : Word) : Bool :=
  match g with
  | some g => lba.toNat % g.pagesCount == 0
  | none => false

end Sys2Proof.Machine
end

