-- ==== Sys2Proof/Machine/Ops.lean ====
section
/-! DEFINITION. The named operations every request is built from: one bus event, sequences of them, one register
transaction; how a request begins and ends; refusing a request (R205); raising an error (R203), the block's form of
taking an exception; reset (R230). -/

namespace Sys2Proof.Machine

/-! ## Running a request -/

/-- How a running request stops before its rule's end. -/
inductive Ending where
  /-- It raised an error (R203). -/
  | raised (e : Error)
  /-- RST was asserted (R230). -/
  | abandoned
  /-- A transport action never completes (U16). -/
  | hung
  deriving DecidableEq, Repr

/-- The outcome of a part of a request: it went on with a value, or it stopped early; the state either way (R203 (3):
what was written before stays written). -/
inductive Run (α : Type) where
  | ok (a : α) (s : State)
  | ended (why : Ending) (s : State)
  deriving Repr

/-- Go on with the next part of a request, unless it stopped. -/
def Run.bind {α β : Type} (r : Run α) (next : α → State → Run β) : Run β :=
  match r with
  | .ok a s => next a s
  | .ended why s => .ended why s

/-! ## Bus events -/

/-- `pin[L]` (R22). -/
def Pins.get (ps : Pins) : ControlLine → Pin
  | .hsA => ps.hsA
  | .hsB => ps.hsB
  | .csN => ps.csN

/-- Write `pin[L]`. -/
def Pins.set (ps : Pins) (l : ControlLine) (p : Pin) : Pins :=
  match l with
  | .hsA => { ps with hsA := p }
  | .hsB => { ps with hsB := p }
  | .csN => { ps with csN := p }

/-- Append an event to the trace; each emitted event advances the step counter by 1 (R13, R26). -/
def State.note (s : State) (e : BusEvent) : State :=
  { s with trace := s.trace ++ [e], stepIdx := s.stepIdx + 1 }

/-- What a completed event writes: a `Pin` event its level, a `PinDir` event its direction (R22). -/
def drivePins (e : BusEvent) (ps : Pins) : Pins :=
  match e with
  | .pinDir l => ps.set l { ps.get l with dir := .output }
  | .pin l level => ps.set l { ps.get l with level := some level }
  | .delay _ => ps
  | .chanOpen _ => ps
  | .chanClose => ps
  | .xfer _ _ => ps

/-- The levels of the three lines are unknown: each is a free value (R207; log 10). -/
def Pins.unknownLevels (draws : Nat) (ps : Pins) : Pins :=
  ⟨{ ps.hsA with level := some (Config.freeBool draws) }, { ps.hsB with level := some (Config.freeBool (draws + 1)) },
    { ps.csN with level := some (Config.freeBool (draws + 2)) }⟩

/-- The line a failed event acted on is unknown: its level, or whether it was configured, is a free value. -/
def unsureLine (e : BusEvent) (free : Bool) (ps : Pins) : Pins :=
  match e with
  | .pinDir l => ps.set l { ps.get l with dir := if free then .output else (ps.get l).dir }
  | .pin l _ => ps.set l { ps.get l with level := some free }
  | .delay _ => ps
  | .chanOpen _ => ps
  | .chanClose => ps
  | .xfer _ _ => ps

/-- What a failed event leaves of the lines. With the link open the levels of all three are unknown (R207). With the
link closed the event is one of OPEN's, and the lines keep the events before it (R118; log 10). -/
def unsurePins (linkOpen : Bool) (e : BusEvent) (draws : Nat) (ps : Pins) : Pins :=
  if linkOpen then ps.unknownLevels draws else unsureLine e (Config.freeBool draws) ps

/-- The state after the transport failed event `e`: the event is the last of the trace, the lines and the device are
unknown (R207). -/
def State.failEvent (s : State) (e : BusEvent) : State :=
  { s.note e with
    pins := unsurePins s.linkOpen e s.draws s.pins
    device := s.device.lost
    draws := s.draws + 3 }

/-- One transport action (R94): it completes and the request goes on with `done`; it fails, and raises
TransportFailure with `e` as the last event (R207); it never completes (U16); or RST is asserted before it begins
(R230). -/
def attempt {α : Type} (e : BusEvent) (s : State) (done : State → Run α) : Run α :=
  match s.answers with
  | [] => done s
  | .completes :: rest => done { s with answers := rest }
  | .fails :: rest => .ended (.raised .transportFailure) ({ s with answers := rest }.failEvent e)
  | .never :: rest => .ended .hung { s with answers := rest }
  | .reset :: rest => .ended .abandoned { s with answers := rest }

/-- A completed event other than a transfer. -/
def State.completeEvent (s : State) (e : BusEvent) : State := { s.note e with pins := drivePins e s.pins }

/-- `emit E` (R14). -/
def emit (e : BusEvent) (s : State) : Run Unit := attempt e s fun s => .ok () (s.completeEvent e)

/-- Emit the events of a list in order (R60). -/
def emitAll : List BusEvent → State → Run Unit
  | [], s => .ok () s
  | e :: rest, s => (emit e s).bind fun _ s => emitAll rest s

/-- TX holds the frame being sent (R32). -/
def State.sending (s : State) (tx : List Byte) : State := { s with latches := { s.latches with tx := some tx } }

/-- The transfer of `tx` completed: the device answered, and RX holds the reply (R32). -/
def State.completeXfer (s : State) (tx : List Byte) : State :=
  let r := s.device.respond s.params tx s.draws
  { s.note (.xfer tx r.bytes) with
    device := r.device
    draws := r.draws
    latches := { s.latches with rx := some r.bytes } }

/-- `rx <- Xfer(tx)` (R14): TX holds the frame from the start of the transfer on, and the target device supplies the
reply. -/
def xfer (tx : List Byte) (s : State) : Run (List Byte) :=
  attempt (.xfer tx []) (s.sending tx) fun s =>
    .ok (s.device.respond s.params tx s.draws).bytes (s.completeXfer tx)

/-! ## Register transactions -/

/-- `Transact(tx)`, one chip-select pulse (R111): four events. -/
def transact (tx : List Byte) (s : State) : Run (List Byte) :=
  (emit (.pin .csN false) s).bind fun _ s =>
  (emit (.delay s.params.tSettle) s).bind fun _ s =>
  (xfer tx s).bind fun rx s =>
  (emit (.pin .csN true) s).bind fun _ s =>
  .ok rx s

/-- `RegRead(a)` (R127). -/
def regRead (a : RegAddr) (s : State) : Run Word :=
  (transact (readFrame s.params.turnaround a) s).bind fun rx s => .ok (replyValue rx) s

/-- `RegWrite(a, v)` (R130): the reply is discarded. -/
def regWrite (a : RegAddr) (v : Word) (s : State) : Run Unit :=
  (transact (writeFrame a v) s).bind fun _ s => .ok () s

/-! ## How a request begins and ends -/

/-- The block latches the request and enters RUN (R88, R26): nothing is emitted yet. -/
def State.begin (s : State) (op : Instr) : State :=
  { s with
    seq := .run op
    stepIdx := 0
    trace := []
    refusal := none
    latches := { s.latches with reg := some op.regOperand, arg := some op.argOperand } }

/-- The request ends with a result code: RESULT is written, and the sequencer returns to IDLE (R26, R28, R88). -/
def State.finish (s : State) (code : Byte) : State :=
  { s with result := some code, seq := .idle, stepIdx := 0 }

/-- `raise E` (R203), the block's form of taking an exception: RESULT holds the code and the sequencer returns to IDLE;
a TransportFailure also sets HALTED (R207). There is no vector, no handler and no saved context (R212). -/
def State.raise (s : State) (e : Error) : State :=
  { s.finish e.code with halted := s.halted || e == .transportFailure }

/-- `refuse(reason)` (R205): no bus event, RESULT 0xF0, REFUSED set, every other field of the block unchanged. The
reason and the empty trace are the model's observation (log 14). -/
def State.refuse (s : State) (reason : RefuseReason) : State :=
  { s with result := some codeRefused, refused := true, trace := [], refusal := some reason }

/-- RST (R230): every field of the block takes its reset value. The parameters, the device (R231) and the pending
answers and inputs of the other agents are not the block's; the trace of an abandoned request ends with its last
event. A reset during a request leaves the device unknown (U3, R249). -/
def State.hardReset (s : State) : State :=
  { State.resetWith s.params (if s.busy then s.device.lost else s.device) with
    answers := s.answers
    draws := s.draws
    inputs := s.inputs
    trace := s.trace
    refusal := s.refusal
    seen := s.seen }

/-- The state a request ends in. A request whose action never completes stays in RUN at that event (U16; log 11). -/
def conclude (r : Run Unit) : State :=
  match r with
  | .ok _ s => s.finish codeOk
  | .ended (.raised e) s => s.raise e
  | .ended .abandoned s => s.hardReset
  | .ended .hung s => s

/-- Serve an admitted or refused request: Halted is checked first (R89 (1)), then the precondition (R89 (5), R205);
an admitted request runs its rule's body to its end. -/
def serve (op : Instr) (ready : Bool) (body : State → Run Unit) (s : State) : Host.Outcome State Fault Refusal :=
  .next
    (if s.halted then s.refuse .halted
     else if ready then conclude (body (s.begin op))
     else s.refuse .precondition)

/-- The state a frame put on the channel by itself ends in: as a request ends, but a completed frame is no request and
writes no RESULT (R127, R130: "Flags: none"; log 7). -/
def concludeFrame (r : Run Unit) : State :=
  match r with
  | .ok _ s => { s with seq := .idle, stepIdx := 0 }
  | .ended (.raised e) s => s.raise e
  | .ended .abandoned s => s.hardReset
  | .ended .hung s => s

/-- Run a frame put on the channel by itself. While HALTED is set the block emits nothing more until reset (R207), and
with the precondition failing it has no open link, so the frame is refused as a request would be. -/
def serveFrame (op : Instr) (ready : Bool) (body : State → Run Unit) (s : State) : Host.Outcome State Fault Refusal :=
  .next
    (if s.halted then s.refuse .halted
     else if ready then concludeFrame (body (s.begin op))
     else s.refuse .precondition)

end Sys2Proof.Machine
end

