-- ==== Sys2Proof/Machine/Link.lean ====
section
/-! DEFINITION. The Register Link (41_register_link.md): the bodies of OPEN and ENTER, which INIT runs too, and the
meanings of OPEN, CLOSE, ENTER, LEAVE, RDREG, WRREG and of the two frames. -/

namespace Sys2Proof.Machine

/-! ## Bodies -/

/-- The seven events of OPEN (R118; the order is D14). -/
def openEvents (p : Params) : List BusEvent :=
  [.pinDir .hsA, .pinDir .hsB, .pinDir .csN, .pin .hsA true, .pin .hsB true, .pin .csN true, .chanOpen p.fSclk]

/-- OPEN's body: nothing when the link is open, else the seven events, then `link_open <- true` (R118). -/
def openBody (s : State) : Run Unit :=
  if s.linkOpen then .ok () s
  else (emitAll (openEvents s.params) s).bind fun _ s => .ok () { s with linkOpen := true }

/-- The four events of CLOSE (R120). -/
def closeEvents : List BusEvent := [.chanClose, .pin .hsA true, .pin .hsB true, .pin .csN true]

/-- The session ends: `initialized <- false`, `geometry <- none` (R120, R124, R162). -/
def State.endSession (s : State) : State := { s with initialized := false, geometry := none }

/-- CLOSE's body (R120). It runs no exit sequence, so whether a reference device is in flash mode afterwards is a free
value (U6; log 26). -/
def closeBody (s : State) : Run Unit :=
  (emitAll closeEvents s).bind fun _ s =>
    .ok () { s.endSession with
      linkOpen := false
      device := s.device.closed (Config.freeBool s.draws)
      draws := s.draws + 1 }

/-- The nine events of ENTER, four phases (R121). Phase 4 drives CS_N to the level it already has (C2). -/
def enterEvents (p : Params) : List BusEvent :=
  [.pin .hsA false, .delay p.tHs,
   .pin .csN false, .pin .hsB false, .delay p.tHs,
   .pin .hsA true, .pin .hsB true, .delay p.tHs,
   .pin .csN false]

/-- ENTER's body (R121); a device that sees the whole sequence is in flash mode (R66, R123). -/
def enterBody (s : State) : Run Unit :=
  (emitAll (enterEvents s.params) s).bind fun _ s => .ok () { s with device := s.device.entered }

/-- The bus event of a step of `P_LEAVE_SEQ` (R125). -/
def leaveEvent (p : Params) : LeaveStep → BusEvent
  | .pin l level => .pin l level
  | .delay t => .delay (p.duration t)

/-- The events of LEAVE: `P_LEAVE_SEQ` (R124, R125). -/
def leaveEvents (p : Params) : List BusEvent := p.leaveSeq.map (leaveEvent p)

/-- LEAVE's body (R124); a device that sees the whole sequence is back in normal operation (R66). -/
def leaveBody (s : State) : Run Unit :=
  (emitAll (leaveEvents s.params) s).bind fun _ s => .ok () { s.endSession with device := s.device.left }

/-- RDREG's body: `VALUE <- RegRead(a)` (R128). -/
def rdregBody (a : RegAddr) (s : State) : Run Unit :=
  (regRead a s).bind fun v s => .ok () { s with value := some v }

/-! ## Meanings -/

/-- OPEN (R118): no precondition. -/
def execOpenLink (s : State) : Host.Outcome State Fault Refusal := serve .openLink true openBody s

/-- CLOSE (R120): precondition `link_open`. -/
def execCloseLink (s : State) : Host.Outcome State Fault Refusal := serve .closeLink s.linkOpen closeBody s

/-- ENTER (R121): precondition `link_open`. -/
def execEnter (s : State) : Host.Outcome State Fault Refusal := serve .enter s.linkOpen enterBody s

/-- LEAVE (R124): precondition `link_open`. -/
def execLeave (s : State) : Host.Outcome State Fault Refusal := serve .leave s.linkOpen leaveBody s

/-- RDREG r (R128): precondition `link_open`. -/
def execRdreg (a : RegAddr) (s : State) : Host.Outcome State Fault Refusal :=
  serve (.rdreg a) s.linkOpen (rdregBody a) s

/-- WRREG r, v (R131): precondition `link_open`. -/
def execWrreg (a : RegAddr) (v : Word) (s : State) : Host.Outcome State Fault Refusal :=
  serve (.wrreg a v) s.linkOpen (regWrite a v) s

/-- SPI_RD: the read frame's register transaction (R91, R127), with RDREG's precondition `link_open`: a closed link has
no channel, and no line is driven before the first OPEN (R21, R232; log 7). The reply is in RX; VALUE is RDREG's
alone. -/
def execSpiRd (a : RegAddr) (s : State) : Host.Outcome State Fault Refusal :=
  serveFrame (.spiRd a) s.linkOpen (fun s => (regRead a s).bind fun _ s => .ok () s) s

/-- SPI_WR: the write frame's register transaction (R92, R130), with WRREG's precondition `link_open` (log 7). -/
def execSpiWr (a : RegAddr) (v : Word) (s : State) : Host.Outcome State Fault Refusal :=
  serveFrame (.spiWr a v) s.linkOpen (regWrite a v) s

end Sys2Proof.Machine
end

