-- ==== Sys2Proof/Machine/Sector.lean ====
section
/-! DEFINITION. The Sector Controller (43_sector.md): wait-ready, status clear, pointer reset, and the meanings of
INIT, RDSEC, ERASE and WRSEC. -/

namespace Sys2Proof.Machine

/-! ## Internal sequences -/

/-- The polls of wait-ready from poll `p` on, with `left` of them remaining (R164): the first poll is immediate, a
delay stands between two polls, and none follows the last. -/
def pollLoop (stage : Stage) : Nat → Nat → State → Run Unit
  | _, 0, s => .ended (.raised (.timeout stage)) s
  | p, left + 1, s =>
    (regRead s.params.regStatus { s with latches := { s.latches with poll := some p } }).bind fun st s =>
    if st &&& s.params.busyMask = 0 then .ok () s
    else
      match left with
      | 0 => .ended (.raised (.timeout stage)) s
      | left' + 1 => (emit (.delay s.params.tPoll) s).bind fun _ s => pollLoop stage (p + 1) (left' + 1) s

/-- `WaitReady(stage)` (R164). -/
def waitReady (stage : Stage) (s : State) : Run Unit := pollLoop stage 1 s.params.pollMax s

/-- Hold the value between the read and the write of a read-modify-write (R32). -/
def State.hold (s : State) (v : Word) : State := { s with latches := { s.latches with held := some v } }

/-- `ClearStatus()`: the value read is written back unchanged (R166). -/
def clearStatus (s : State) : Run Unit :=
  (regRead s.params.regStatus s).bind fun st s => regWrite s.params.regStatus st (s.hold st)

/-- `ResetPointer()` (R167). -/
def resetPointer (s : State) : Run Unit := regWrite s.params.regAddress 0 s

/-- Write a command value to the command register (R96). -/
def command (v : Word) (s : State) : Run Unit := regWrite s.params.regCommand v s

/-- Write the sector's byte address to the address register (R46; C7). -/
def setAddress (lba : Word) (s : State) : Run Unit := regWrite s.params.regAddress (sectorAddress lba) s

/-! ## Bodies -/

/-- INIT after the second configuration read gave `v`: VALUE, then the session or InvalidGeometry (R161, R162). -/
def adoptGeometry (v : Word) (s : State) : Run Unit :=
  match decodeGeometry s.params.geomShiftLimit v with
  | some g => .ok () { s with value := some v, geometry := some g, initialized := true }
  | none => .ended (.raised .invalidGeometry) { s.endSession with value := some v }

/-- INIT when the session exists: `VALUE <- geometry.raw` (R160). An initialized block always holds a geometry
(R33 (1)); without one there is no raw word, and VALUE stays (DEDUCED, safe; log 18). -/
def State.showCachedRaw (s : State) : State :=
  match s.geometry with
  | some g => { s with value := some g.raw }
  | none => s

/-- INIT's body (R160, R161): nothing but VALUE when the session exists; else OPEN's body, ENTER's body and two
configuration reads, of which the first is discarded. -/
def initBody (s : State) : Run Unit :=
  if s.initialized then .ok () s.showCachedRaw
  else
    (openBody s).bind fun _ s =>
    (enterBody s).bind fun _ s =>
    (regRead s.params.regConfig s).bind fun _ s =>
    (regRead s.params.regConfig s).bind fun v2 s =>
    adoptGeometry v2 s

/-- The word loop of RDSEC from word `i` on, with `n` words to go: a null command, a data read, four bytes of SB
(R169). -/
def readWords : Nat → Nat → State → Run Unit
  | 0, _, s => .ok () s
  | n + 1, i, s =>
    (command s.params.cmdNull { s with latches := { s.latches with word := some i } }).bind fun _ s =>
    (regRead s.params.regData s).bind fun w s =>
    readWords n (i + 1) { s with sb := sbPutWord s.sb i w }

/-- RDSEC's body (R169). -/
def rdsecBody (lba : Word) (s : State) : Run Unit :=
  (clearStatus s).bind fun _ s =>
  (setAddress lba s).bind fun _ s =>
  (command s.params.cmdRead s).bind fun _ s =>
  (waitReady .read s).bind fun _ s =>
  (resetPointer s).bind fun _ s =>
  readWords sectorWords 0 s

/-- SB with all 528 bytes free (U13). -/
def freeSB (draws : Nat) : Memory := (List.range sectorBytes).map fun j => (j, Config.freeByte (draws + j))

/-- After a transport failure inside RDSEC every byte of SB is any value (R207, U13, D43; log 13). -/
def loseSB (r : Run Unit) : Run Unit :=
  match r with
  | .ended (.raised .transportFailure) s =>
    .ended (.raised .transportFailure) { s with sb := freeSB s.draws, draws := s.draws + sectorBytes }
  | r => r

/-- Set the write/erase-enable bit by a read-modify-write of the configuration register (R172, D23). -/
def enableWrite (s : State) : Run Unit :=
  (regRead s.params.regConfig s).bind fun c s => regWrite s.params.regConfig (c ||| s.params.weMask) (s.hold c)

/-- ERASE's body (R172). -/
def eraseBody (lba : Word) (s : State) : Run Unit :=
  (clearStatus s).bind fun _ s =>
  (enableWrite s).bind fun _ s =>
  (setAddress lba s).bind fun _ s =>
  (command s.params.cmdEUnlock s).bind fun _ s =>
  (command s.params.cmdEConfirm s).bind fun _ s =>
  (command s.params.cmdEExec s).bind fun _ s =>
  waitReady .erase s

/-- The word loop of WRSEC from word `i` on, with `n` words to go: a data write, a write-command pulse (R176). -/
def writeWords : Nat → Nat → State → Run Unit
  | 0, _, s => .ok () s
  | n + 1, i, s =>
    (regWrite s.params.regData (sbWord s.sb i) { s with latches := { s.latches with word := some i } }).bind fun _ s =>
    (command s.params.cmdWPulse s).bind fun _ s =>
    writeWords n (i + 1) s

/-- Erase-before-write: ERASE's body when the LBA is the first sector of its erase block, nothing otherwise (R175). -/
def eraseFirst (lba : Word) (s : State) : Run Unit :=
  if firstOfBlock s.geometry lba then eraseBody lba s else .ok () s

/-- WRSEC's body (R176). -/
def wrsecBody (lba : Word) (s : State) : Run Unit :=
  (eraseFirst lba s).bind fun _ s =>
  (clearStatus s).bind fun _ s =>
  (resetPointer s).bind fun _ s =>
  (writeWords sectorWords 0 s).bind fun _ s =>
  (waitReady .writeData s).bind fun _ s =>
  (setAddress lba s).bind fun _ s =>
  (waitReady .writeAddress s).bind fun _ s =>
  (command s.params.cmdWUnlock s).bind fun _ s =>
  (command s.params.cmdWConfirm s).bind fun _ s =>
  (command s.params.cmdWExec s).bind fun _ s =>
  waitReady .writeExecute s

/-! ## Meanings -/

/-- INIT (R160 to R163): no precondition. -/
def execInit (s : State) : Host.Outcome State Fault Refusal := serve .init true initBody s

/-- RDSEC n (R168, R169): precondition `initialized`. -/
def execRdsec (lba : Word) (s : State) : Host.Outcome State Fault Refusal :=
  serve (.rdsec lba) s.initialized (fun s => loseSB (rdsecBody lba s)) s

/-- WRSEC n (R174, R176): precondition `initialized`, and every byte of SB has a value. -/
def execWrsec (lba : Word) (s : State) : Host.Outcome State Fault Refusal :=
  serve (.wrsec lba) (s.initialized && sbFull s.sb) (wrsecBody lba) s

/-- ERASE n (R171, R172): precondition `initialized`. -/
def execErase (lba : Word) (s : State) : Host.Outcome State Fault Refusal :=
  serve (.erase lba) s.initialized (eraseBody lba) s

end Sys2Proof.Machine
end

