-- ==== Sys2Proof/Machine/Dispatch.lean ====
section
/-! DEFINITION. One arm per instruction of the opcode table: the meaning it calls. -/

namespace Sys2Proof.Machine

def exec (i : Instr) (s : State) : Host.Outcome State Fault Refusal :=
  match i with
  | .openLink => Sys2Proof.Machine.execOpenLink s
  | .closeLink => Sys2Proof.Machine.execCloseLink s
  | .enter => Sys2Proof.Machine.execEnter s
  | .leave => Sys2Proof.Machine.execLeave s
  | .rdreg a => Sys2Proof.Machine.execRdreg a s
  | .wrreg a v => Sys2Proof.Machine.execWrreg a v s
  | .init => Sys2Proof.Machine.execInit s
  | .rdsec lba => Sys2Proof.Machine.execRdsec lba s
  | .wrsec lba => Sys2Proof.Machine.execWrsec lba s
  | .erase lba => Sys2Proof.Machine.execErase lba s
  | .spiRd a => Sys2Proof.Machine.execSpiRd a s
  | .spiWr a v => Sys2Proof.Machine.execSpiWr a v s

end Sys2Proof.Machine
end

