-- ==== Sys2Proof/Machine/HostPort.lean ====
section
/-! DEFINITION. What each input of the host does (R27, R34, R85, R88, R230). -/

namespace Sys2Proof.Machine

/-- A request word on the request port (R89): Halted first, then the decoder's refusal, then the operation. -/
def presentRequest (q : RequestWord) (s : State) : Host.Outcome State Fault Refusal :=
  if s.halted then .next (s.refuse .halted)
  else
    match decodeRequest q with
    | .ok i => exec i s
    | .error reason => .next (s.refuse reason)

/-- A frame on the SPI channel (R90, R95); header types 0 and 3 are refused by name (U5). -/
def presentFrame (tx : List Byte) (s : State) : Host.Outcome State Fault Refusal :=
  match decodeFrame tx with
  | .ok i => exec i s
  | .error .frameType => .refused .frameType
  | .error .frameLength => .refused .frameLength

/-- `MemWrite(SB, off, n, bytes)` by the host (R14, R27). -/
def hostLoadSB (off : Nat) (bytes : List Byte) (s : State) : Host.Outcome State Fault Refusal :=
  if off + bytes.length ≤ sectorBytes then .next { s with sb := s.sb.writeBytes off bytes } else .fault .sbOutOfRange

/-- `MemRead(SB, off, n)` by the host (R14, R27): a byte that has no value faults (U11). -/
def hostReadSB (off n : Nat) (s : State) : Host.Outcome State Fault Refusal :=
  if off + n ≤ sectorBytes then
    match s.sb.readBytes off n with
    | some bs => .next { s with seen := some (.bytes bs) }
    | none => .fault .sbByteNoValue
  else .fault .sbOutOfRange

/-- The host reads STAT (R34), at any time. -/
def hostReadStat (s : State) : Host.Outcome State Fault Refusal :=
  .next { s with seen := some (.stat s.statLow s.result) }

/-- The host reads RESULT (R28): before any request has written it, a fault (U14). -/
def hostReadResult (s : State) : Host.Outcome State Fault Refusal :=
  match s.result with
  | some r => .next { s with seen := some (.result r) }
  | none => .fault .resultNoValue

/-- The host reads VALUE (R29): before any request has written it, a fault (U14). -/
def hostReadValue (s : State) : Host.Outcome State Fault Refusal :=
  match s.value with
  | some v => .next { s with seen := some (.value v) }
  | none => .fault .valueNoValue

/-- The host reads the fields of the geometry (R34), when `initialized` is true. -/
def hostReadGeometry (s : State) : Host.Outcome State Fault Refusal :=
  match s.initialized, s.geometry with
  | true, some g => .next { s with seen := some (.geometry g) }
  | _, _ => .fault .geometryNoValue

/-- The host has no move on the request port, the channel or SB while the sequencer runs (R88). It never sees a
request that ends, so here the request is one whose transport action never completes: the machine is stuck (U16). -/
def whileIdle (s : State) (move : State → Host.Outcome State Fault Refusal) : Host.Outcome State Fault Refusal :=
  if s.busy then .fault .stuck else move s

/-- One input, taken from the queue. STAT, RESULT, VALUE and the geometry can be read, and RST asserted, at any
time. -/
def serveInput (i : Input) (s : State) : Host.Outcome State Fault Refusal :=
  match i with
  | .request q => whileIdle s (presentRequest q)
  | .frame tx => whileIdle s (presentFrame tx)
  | .loadSB off bytes => whileIdle s (hostLoadSB off bytes)
  | .readSB off n => whileIdle s (hostReadSB off n)
  | .readStat => hostReadStat s
  | .readResult => hostReadResult s
  | .readValue => hostReadValue s
  | .readGeometry => hostReadGeometry s
  | .rst => .next s.hardReset

/-- The input that carries an instruction whose bits, numbered as the opcode table numbers them, are `w`. -/
def inputOfTableWord (nbits w : Nat) : Input :=
  if nbits ≤ 8 then .frame (frameOfHeader (BitVec.ofNat 8 w)) else .request (BitVec.ofNat 48 w)

/-- With no input pending the block waits in IDLE (R230, R221); a request whose action never completes is stuck (U16). -/
def waitForInput (s : State) : Host.Outcome State Fault Refusal := whileIdle s fun s => .next s

end Sys2Proof.Machine
end

