-- ==== Sys2Proof/Machine/Step.lean ====
section
/-! DEFINITION. One step of the machine: the next pending input of the host is served. -/

namespace Sys2Proof.Machine

/-- Serve the oldest pending input; with none pending, wait. -/
def step (s : State) : Host.Outcome State Fault Refusal :=
  match s.inputs with
  | [] => waitForInput s
  | i :: rest => serveInput i { s with inputs := rest }

/-- The state `s` with an instruction, whose bits in the opcode table's numbering are `w`, as the host's next input. -/
def State.withFetchWord (s : State) (nbits w : Nat) : State :=
  { s with inputs := inputOfTableWord nbits w :: s.inputs }

end Sys2Proof.Machine
end

