-- ==== Sys2Proof/Machine/Assembler.lean ====
section
/-! DEFINITION. The assembler syntax of the test programs (R97, R98): the text of a line, the request it stands for,
and its encoding as 12 hexadecimal digits. -/

namespace Sys2Proof

/-- The register parameter a name stands for (R97). -/
def RegName.parameter (p : Params) : RegName → RegAddr
  | .config => p.regConfig
  | .status => p.regStatus
  | .command => p.regCommand
  | .address => p.regAddress
  | .data => p.regData

/-- The register address of an operand; a number above 63 has none (R97). -/
def RegOperand.resolve (p : Params) (r : RegOperand) : Option RegAddr :=
  match r with
  | .number n => if n < 64 then some (BitVec.ofNat 6 n) else none
  | .named n => some (n.parameter p)

/-- The 32-bit value of a number, if it is in range (R97). -/
def resolveWord (n : Nat) : Option Word := if n < 2 ^ 32 then some (BitVec.ofNat 32 n) else none

/-- The request a line stands for: exactly one (R98). An operand out of range has none. -/
def AsmLine.toInstr (p : Params) (l : AsmLine) : Option Instr :=
  match l with
  | .openLink => some .openLink
  | .closeLink => some .closeLink
  | .enter => some .enter
  | .leave => some .leave
  | .rdreg r => (r.resolve p).map .rdreg
  | .wrreg r v =>
    match r.resolve p, resolveWord v with
    | some a, some w => some (.wrreg a w)
    | _, _ => none
  | .init => some .init
  | .rdsec n => (resolveWord n).map .rdsec
  | .wrsec n => (resolveWord n).map .wrsec
  | .erase n => (resolveWord n).map .erase

/-! ## Text -/

/-- The digit a character stands for in a base up to 16. -/
def digitOf (base : Nat) (c : Char) : Option Nat :=
  let v :=
    if '0'.toNat ≤ c.toNat ∧ c.toNat ≤ '9'.toNat then some (c.toNat - '0'.toNat)
    else if 'a'.toNat ≤ c.toNat ∧ c.toNat ≤ 'f'.toNat then some (c.toNat - 'a'.toNat + 10)
    else if 'A'.toNat ≤ c.toNat ∧ c.toNat ≤ 'F'.toNat then some (c.toNat - 'A'.toNat + 10)
    else none
  match v with
  | some d => if d < base then some d else none
  | none => none

/-- Read digits in a base, most significant first, onto what was read before. -/
def readDigits (base : Nat) : Nat → List Char → Option Nat
  | acc, [] => some acc
  | acc, c :: rest =>
    match digitOf base c with
    | some d => readDigits base (acc * base + d) rest
    | none => none

/-- A number: decimal, or hexadecimal after `0x` (R97). -/
def readNumber : List Char → Option Nat
  | [] => none
  | '0' :: 'x' :: c :: rest => readDigits 16 0 (c :: rest)
  | c :: rest => readDigits 10 0 (c :: rest)

/-- A register operand: one of the five names, or a number (R97). -/
def readRegOperand (t : List Char) : Option RegOperand :=
  if t = ['C', 'O', 'N', 'F', 'I', 'G'] then some (.named .config)
  else if t = ['S', 'T', 'A', 'T', 'U', 'S'] then some (.named .status)
  else if t = ['C', 'O', 'M', 'M', 'A', 'N', 'D'] then some (.named .command)
  else if t = ['A', 'D', 'D', 'R', 'E', 'S', 'S'] then some (.named .address)
  else if t = ['D', 'A', 'T', 'A'] then some (.named .data)
  else (readNumber t).map .number

/-- The words of a text: spaces separate, and a comma is a word of its own. `cur` is the word being read, reversed. -/
def splitWords : List Char → List Char → List (List Char)
  | cur, [] => if cur.isEmpty then [] else [cur.reverse]
  | cur, c :: rest =>
    if c = ' ' then (if cur.isEmpty then [] else [cur.reverse]) ++ splitWords [] rest
    else if c = ',' then (if cur.isEmpty then [] else [cur.reverse]) ++ [','] :: splitWords [] rest
    else splitWords (c :: cur) rest

/-- A line with one LBA operand. -/
def readLbaLine (t : List Char) (line : Nat → AsmLine) : Option AsmLine := (readNumber t).map line

/-- The request line its words spell (R97). -/
def readLine : List (List Char) → Option AsmLine
  | [['O', 'P', 'E', 'N']] => some .openLink
  | [['C', 'L', 'O', 'S', 'E']] => some .closeLink
  | [['E', 'N', 'T', 'E', 'R']] => some .enter
  | [['L', 'E', 'A', 'V', 'E']] => some .leave
  | [['I', 'N', 'I', 'T']] => some .init
  | [['R', 'D', 'R', 'E', 'G'], r] => (readRegOperand r).map .rdreg
  | [['W', 'R', 'R', 'E', 'G'], r, [','], v] =>
    match readRegOperand r, readNumber v with
    | some r, some v => some (.wrreg r v)
    | _, _ => none
  | [['R', 'D', 'S', 'E', 'C'], n] => readLbaLine n .rdsec
  | [['W', 'R', 'S', 'E', 'C'], n] => readLbaLine n .wrsec
  | [['E', 'R', 'A', 'S', 'E'], n] => readLbaLine n .erase
  | _ => none

/-- What a line of a test program is (R97). -/
inductive AsmText where
  /-- Nothing but space or a comment. -/
  | blank
  /-- A host action, which has no encoding. -/
  | hostAction
  /-- A request. -/
  | request (l : AsmLine)
  deriving DecidableEq, Repr

/-- The words of a line without its comment, which a semicolon starts (R97). -/
def lineWords (text : List Char) : List (List Char) := splitWords [] (text.takeWhile fun c => c != ';')

/-- Read one line of a test program (R97). -/
def readText (text : List Char) : Option AsmText :=
  match lineWords text with
  | [] => some .blank
  | w :: rest =>
    if ['h', 'o', 's', 't', ':'].isPrefixOf w then some .hostAction else (readLine (w :: rest)).map .request

/-- The request word a line of text encodes to; a line that is not a request has none (R97). -/
def assemble (p : Params) (text : List Char) : Option RequestWord :=
  match readText text with
  | some (.request l) => (l.toInstr p).map encodeRequest
  | _ => none

/-- A hexadecimal digit. -/
def hexDigit (n : Nat) : Char := ['0', '1', '2', '3', '4', '5', '6', '7', '8', '9', 'A', 'B', 'C', 'D', 'E', 'F'].getD n '0'

/-- A request word as 12 hexadecimal digits, `Q[47:44]` first (R97). -/
def requestHex (q : RequestWord) : List Char :=
  (List.range 12).map fun i => hexDigit (q.extractLsb' (44 - 4 * i) 4).toNat

end Sys2Proof
end

