-- ==== Sys2Proof/Safety.lean ====
section
/-! DEFINITION. The terms claims are stated in: the invariant of the block (R33 and the forms of its fields), what the
agents around it are assumed to do, and the register transactions a trace is built from. -/

namespace Sys2Proof.Machine

/-! ## The invariant -/

/-- A geometry has the ranges of R147, and the constant page size of R36. -/
def FlashGeometry.legal (g : FlashGeometry) : Bool :=
  g.pageSize == 512 && [0x20, 0x100, 0x200].contains g.pagesCount &&
    [0x3E0, 0x7C0, 0xF80, 0x1E0, 0xF0].contains g.fsBlocks && decide (g.blocksCount ≤ 2 ^ 24)

/-- No cell of a sparse memory holds the value an unlisted address reads as. -/
def noDefaultCells (dflt : Byte) (m : Memory) : Bool := m.all fun c => c.2 != dflt

/-- The form of the reference device's state (R75): 64 registers, a 528-byte page buffer, an array in canonical form,
and RDM_CFG0 with the P_WE_MASK bits clear. -/
def Rdm.wf (p : Params) (r : Rdm) : Bool :=
  r.reg.length == 64 && r.pb.length == sectorBytes && Memory.wf r.array && noDefaultCells r.erased r.array &&
    r.cfg0 &&& p.weMask == 0

/-- The form of the device's state. -/
def Device.wf (p : Params) : Device → Bool
  | .oracle _ => true
  | .rdm r => r.wf p

/-- The invariant of the block. -/
structure State.Inv (s : State) : Prop where
  /-- R33 (1): `initialized` exactly when a geometry is cached. -/
  session : s.initialized = s.geometry.isSome
  /-- R33 (2): an initialized block has its link open. -/
  initializedOpen : s.initialized = true → s.linkOpen = true
  /-- R33 (3): an open link has its three lines configured as outputs. -/
  openOutputs : s.linkOpen = true →
    s.pins.hsA.dir = .output ∧ s.pins.hsB.dir = .output ∧ s.pins.csN.dir = .output
  /-- R22, R232: a line has a level only if it is configured as an output. -/
  levelsDriven : ∀ l, (s.pins.get l).level ≠ none → (s.pins.get l).dir = .output
  /-- R147: a cached geometry is in range. -/
  geometryLegal : ∀ g, s.geometry = some g → g.legal = true
  /-- R27, R45: SB is in canonical form and inside 0 to 527. -/
  sbForm : sbWf s.sb = true
  /-- R200: RESULT holds one of the nine codes. -/
  resultLegal : ∀ r, s.result = some r → r ∈ resultCodes
  /-- R26: the step counter is 0 between requests. -/
  idleStep : s.seq = .idle → s.stepIdx = 0
  /-- R26: during a request the step counter is the number of events emitted. -/
  runningStep : s.seq ≠ .idle → s.stepIdx = s.trace.length
  /-- R7, R125: the parameters are admissible. -/
  paramsAdmissible : s.params.admissible = true
  /-- The device's state has its form. -/
  deviceForm : s.device.wf s.params = true

/-! ## What the agents around the block do -/

/-- The transport completes every action (R208). -/
abbrev State.TransportCompletes (s : State) : Prop := ∀ a ∈ s.answers, a = Answer.completes

/-- RST is not asserted during a request (R211, R230). -/
abbrev State.NoReset (s : State) : Prop := Answer.reset ∉ s.answers

/-- Every status read among the device's next `n` transfers, whatever those transfers are, is answered with the busy
bit clear (R68, R164). -/
def Device.readyFor (p : Params) : Nat → Device → Nat → Prop
  | 0, _, _ => True
  | n + 1, d, k => ∀ tx : List Byte, tx.length ≤ 6 →
    (tx = readFrame p.turnaround p.regStatus → replyValue (d.respond p tx k).bytes &&& p.busyMask = 0) ∧
      Device.readyFor p n (d.respond p tx k).device (d.respond p tx k).draws

/-- Every status read among the device's next `n` transfers, whatever those transfers are, is answered with the busy
bit set (R68, R164; S-7). -/
def Device.busyFor (p : Params) : Nat → Device → Nat → Prop
  | 0, _, _ => True
  | n + 1, d, k => ∀ tx : List Byte, tx.length ≤ 6 →
    (tx = readFrame p.turnaround p.regStatus → replyValue (d.respond p tx k).bytes &&& p.busyMask ≠ 0) ∧
      Device.busyFor p n (d.respond p tx k).device (d.respond p tx k).draws

/-! ## Register transactions in a trace -/

/-- One register transaction as a trace shows it: its register, the value written, and the reply. -/
inductive Transaction where
  | read (a : RegAddr) (rx : List Byte)
  | write (a : RegAddr) (v : Word) (rx : List Byte)
  deriving DecidableEq, Repr

/-- The four bus events of a transfer inside one chip-select pulse (R111). -/
def pulseEvents (p : Params) (tx rx : List Byte) : List BusEvent :=
  [.pin .csN false, .delay p.tSettle, .xfer tx rx, .pin .csN true]

/-- The four bus events of a register transaction (R127, R130). -/
def Transaction.events (p : Params) : Transaction → List BusEvent
  | .read a rx => pulseEvents p (readFrame p.turnaround a) rx
  | .write a v rx => pulseEvents p (writeFrame a v) rx

/-- The bus events of a list of register transactions with nothing between them. -/
def transactionEvents (p : Params) (ts : List Transaction) : List BusEvent := ts.flatMap (Transaction.events p)

/-- The bus events of the polls of wait-ready: a status read for each reply, a delay between two (R164). -/
def pollEvents (p : Params) : List (List Byte) → List BusEvent
  | [] => []
  | [rx] => Transaction.events p (.read p.regStatus rx)
  | rx :: next :: rest =>
    Transaction.events p (.read p.regStatus rx) ++ [.delay p.tPoll] ++ pollEvents p (next :: rest)

/-- The status a reply carries shows the device busy (R164). -/
def statusBusy (p : Params) (rx : List Byte) : Bool := replyValue rx &&& p.busyMask != 0

/-- The replies of a wait-ready that ended ready: busy at every poll but the last, at most P_POLL_MAX polls (R164). -/
def readyPolls (p : Params) (polls : List (List Byte)) : Prop :=
  ∃ busy last, polls = busy ++ [last] ∧ polls.length ≤ p.pollMax ∧ (∀ rx ∈ busy, statusBusy p rx = true) ∧
    statusBusy p last = false

/-- The replies of a wait-ready that timed out: P_POLL_MAX polls, busy at each (R164). -/
def busyPolls (p : Params) (polls : List (List Byte)) : Prop :=
  polls.length = p.pollMax ∧ ∀ rx ∈ polls, statusBusy p rx = true

/-- One part of a sector request that ends in a wait-ready: the stage of that wait, and the transactions before it. -/
abbrev StagePart := Stage × List Transaction

/-- The bus events of such parts, with the replies of each stage's polls. -/
def stageEvents (p : Params) (polls : Stage → List (List Byte)) (parts : List StagePart) : List BusEvent :=
  parts.flatMap fun part => transactionEvents p part.2 ++ pollEvents p (polls part.1)

/-- The eight transactions of ERASE before its wait-ready, with their replies numbered from 0 (R172). -/
def eraseTransactions (p : Params) (lba : Word) (r : Nat → List Byte) : List Transaction :=
  [.read p.regStatus (r 0), .write p.regStatus (replyValue (r 0)) (r 1),
   .read p.regConfig (r 2), .write p.regConfig (replyValue (r 2) ||| p.weMask) (r 3),
   .write p.regAddress (sectorAddress lba) (r 4),
   .write p.regCommand p.cmdEUnlock (r 5), .write p.regCommand p.cmdEConfirm (r 6),
   .write p.regCommand p.cmdEExec (r 7)]

/-- The four transactions of RDSEC before its wait-ready (R169). -/
def readCommandTransactions (p : Params) (lba : Word) (r : Nat → List Byte) : List Transaction :=
  [.read p.regStatus (r 0), .write p.regStatus (replyValue (r 0)) (r 1),
   .write p.regAddress (sectorAddress lba) (r 2), .write p.regCommand p.cmdRead (r 3)]

/-- The 264 transactions of RDSEC's word loop: for each word a null command and a data read (R169). -/
def readWordTransactions (p : Params) (r : Nat → List Byte) : List Transaction :=
  (List.range 132).flatMap fun i => [.write p.regCommand p.cmdNull (r (2 * i)), .read p.regData (r (2 * i + 1))]

/-- The 267 transactions of WRSEC before its first wait-ready, the erase apart: status clear, pointer reset, and for
each word of SB a data write and a write-command pulse (R176). -/
def writeWordTransactions (p : Params) (sb : Memory) (r : Nat → List Byte) : List Transaction :=
  [.read p.regStatus (r 0), .write p.regStatus (replyValue (r 0)) (r 1), .write p.regAddress 0 (r 2)] ++
    (List.range 132).flatMap fun i =>
      [.write p.regData (sbWord sb i) (r (3 + 2 * i)), .write p.regCommand p.cmdWPulse (r (4 + 2 * i))]

/-- The write triplet of WRSEC (R176). -/
def writeTripletTransactions (p : Params) (r : Nat → List Byte) : List Transaction :=
  [.write p.regCommand p.cmdWUnlock (r 0), .write p.regCommand p.cmdWConfirm (r 1),
   .write p.regCommand p.cmdWExec (r 2)]

/-- The parts of WRSEC in the order of R177: the erase at a first sector, the words of SB, the address, the write
triplet. -/
def wrsecParts (p : Params) (lba : Word) (sb : Memory) (first : Bool) (e r w : Nat → List Byte) : List StagePart :=
  (if first then [(Stage.erase, eraseTransactions p lba e)] else []) ++
    [(Stage.writeData, writeWordTransactions p sb r),
     (Stage.writeAddress, [.write p.regAddress (sectorAddress lba) (w 0)]),
     (Stage.writeExecute, writeTripletTransactions p fun i => w (i + 1))]

/-- What the device answers to transfers sent one after the other: its replies, and the device afterwards (R55, R60). -/
def Device.respondAll (p : Params) : List (List Byte) → Device → Nat → List (List Byte) × Device × Nat
  | [], d, k => ([], d, k)
  | tx :: rest, d, k =>
    let r := d.respond p tx k
    let (rxs, d', k') := Device.respondAll p rest r.device r.draws
    (r.bytes :: rxs, d', k')

/-- The line an event acts on. -/
def BusEvent.line : BusEvent → Option ControlLine
  | .pinDir l => some l
  | .pin l _ => some l
  | .delay _ => none
  | .chanOpen _ => none
  | .chanClose => none
  | .xfer _ _ => none

/-- The bytes sent by the transfers of a trace, and the bytes received, in order. -/
def transfersOf (es : List BusEvent) : List (List Byte × List Byte) :=
  es.filterMap fun e =>
    match e with
    | .xfer tx rx => some (tx, rx)
    | .pinDir _ => none
    | .pin _ _ => none
    | .delay _ => none
    | .chanOpen _ => none
    | .chanClose => none

/-- A request that was admitted, emitted `es` with a transport that completes, ended with `code`, and wrote nothing
else. -/
def State.completed (s : State) (op : Instr) (code : Byte) (es : List BusEvent) : State :=
  { s with
    seq := .idle
    stepIdx := 0
    result := some code
    refusal := none
    trace := es
    answers := s.answers.drop es.length
    latches := { s.latches with reg := some op.regOperand, arg := some op.argOperand } }

/-- The state INIT leaves after its two configuration reads, before the word is decoded: the second reply is `r2`. -/
def State.initDone (s : State) (code : Byte) : State :=
  let p := s.params
  let tx := readFrame p.turnaround p.regConfig
  let r1 := s.device.entered.respond p tx s.draws
  let r2 := r1.device.respond p tx r1.draws
  let dir := fun d : PinDir => if s.linkOpen then d else .output
  let opening : List BusEvent :=
    [.pinDir .hsA, .pinDir .hsB, .pinDir .csN, .pin .hsA true, .pin .hsB true, .pin .csN true, .chanOpen p.fSclk]
  let entering : List BusEvent :=
    [.pin .hsA false, .delay p.tHs, .pin .csN false, .pin .hsB false, .delay p.tHs, .pin .hsA true, .pin .hsB true,
      .delay p.tHs, .pin .csN false]
  let opened : List BusEvent := if s.linkOpen then [] else opening
  let es : List BusEvent := opened ++ entering ++ pulseEvents p tx r1.bytes ++ pulseEvents p tx r2.bytes
  { s.completed .init code es with
    linkOpen := true
    pins := ⟨⟨dir s.pins.hsA.dir, some true⟩, ⟨dir s.pins.hsB.dir, some true⟩, ⟨dir s.pins.csN.dir, some true⟩⟩
    value := some (replyValue r2.bytes)
    device := r2.device
    draws := r2.draws
    latches := { s.latches with reg := some 0, arg := some 0, tx := some tx, rx := some r2.bytes } }

/-- CS_N is at level 1 (R111, R112). -/
def Pins.csHigh (ps : Pins) : Pins := { ps with csN := { ps.csN with level := some true } }

/-- The five register parameters are distinct (R42 says the source does not; a claim that needs it says so). -/
def distinctRegisters (p : Params) : Bool :=
  decide [p.regConfig, p.regStatus, p.regCommand, p.regAddress, p.regData].Nodup

/-- The five command values with an effect of their own in the reference device (R79) are distinct from one another and
from the unlock and confirm values (N19 says the source does not; a claim that needs it says so). -/
def distinctCommands (p : Params) : Bool :=
  decide [p.cmdRead, p.cmdNull, p.cmdWPulse, p.cmdEExec, p.cmdWExec].Nodup &&
    [p.cmdEUnlock, p.cmdEConfirm, p.cmdWUnlock, p.cmdWConfirm].all fun v =>
      !([p.cmdRead, p.cmdNull, p.cmdWPulse, p.cmdEExec, p.cmdWExec].contains v)

/-- The reference device is in flash mode, past its unreliable first read, and never busy (R75 to R77). -/
def Rdm.quiet (r : Rdm) : Bool :=
  r.fm && !r.firstCfg && r.busy == 0 && r.busyLeft == 0 && r.busyScript.isEmpty

/-- The bound of R246 on the number of bus events of an instruction; a frame put on the channel by itself is one
register transaction. -/
def traceBound (p : Params) : Instr → Nat
  | .openLink => 7
  | .closeLink => 4
  | .enter => 9
  | .leave => p.leaveSeq.length
  | .rdreg _ => 4
  | .wrreg _ _ => 4
  | .init => 24
  | .rdsec _ => 1075 + 5 * p.pollMax
  | .wrsec _ => 1112 + 20 * p.pollMax
  | .erase _ => 31 + 5 * p.pollMax
  | .spiRd _ => 4
  | .spiWr _ _ => 4

/-- The codes a request can end with (R202); a frame put on the channel by itself can be refused or fail. -/
def codesOf : Instr → List Byte
  | .openLink => [0x00, 0x20, 0xF0]
  | .closeLink => [0x00, 0x20, 0xF0]
  | .enter => [0x00, 0x20, 0xF0]
  | .leave => [0x00, 0x20, 0xF0]
  | .rdreg _ => [0x00, 0x20, 0xF0]
  | .wrreg _ _ => [0x00, 0x20, 0xF0]
  | .init => [0x00, 0x10, 0x20, 0xF0]
  | .rdsec _ => [0x00, 0x01, 0x20, 0xF0]
  | .wrsec _ => [0x00, 0x02, 0x03, 0x04, 0x05, 0x20, 0xF0]
  | .erase _ => [0x00, 0x02, 0x20, 0xF0]
  | .spiRd _ => [0x20, 0xF0]
  | .spiWr _ _ => [0x20, 0xF0]

/-- The precondition of an instruction (R205); the frames have that of RDREG and WRREG (log 7). -/
def ready (i : Instr) (s : State) : Bool :=
  match i with
  | .openLink => true
  | .closeLink => s.linkOpen
  | .enter => s.linkOpen
  | .leave => s.linkOpen
  | .rdreg _ => s.linkOpen
  | .wrreg _ _ => s.linkOpen
  | .init => true
  | .rdsec _ => s.initialized
  | .wrsec _ => s.initialized && sbFull s.sb
  | .erase _ => s.initialized
  | .spiRd _ => s.linkOpen
  | .spiWr _ _ => s.linkOpen

/-- No request of the run so far was refused (R30, R206): the premise a claim about a whole run takes. -/
def State.noRefusal (s : State) : Bool := !s.refused

end Sys2Proof.Machine
end

