-- ==== Sys2Proof/Certificates/Slice0/Obligations.lean ====
section
/-! DEFINITION. The statements for the provers, from the numbered rules of spec/. -/

open Sys2Proof Sys2Proof.Machine

/-! ## Encodings -/

/-- R99: the seven examples, decoded and encoded, and `RDSEC 5` as bytes. -/
def Obligations.RequestWordExamples : Prop :=
  decodeRequest 0x000000000001 = .ok .openLink ∧ decodeRequest 0x000000000405 = .ok (.rdreg 0x04) ∧
  decodeRequest 0x00000A000C06 = .ok (.wrreg 0x0C 0x00000A00) ∧ decodeRequest 0x000000050008 = .ok (.rdsec 5) ∧
  decodeRequest 0x000000200009 = .ok (.wrsec 0x20) ∧ decodeRequest 0x00000020000A = .ok (.erase 0x20) ∧
  decodeRequest 0x000000000007 = .ok .init ∧
  [Instr.openLink, .rdreg 0x04, .wrreg 0x0C 0x00000A00, .rdsec 5, .wrsec 0x20, .erase 0x20, .init].map encodeRequest =
    [0x000000000001, 0x000000000405, 0x00000A000C06, 0x000000050008, 0x000000200009, 0x00000020000A,
      0x000000000007] ∧
  encode 0 (.rdsec 5) = [0x08, 0x00, 0x05, 0x00, 0x00, 0x00]

/-- V-FRM-1 and V-FRM-2: frames of a read and of a write at both ends of the address range and of a write between
them, as bytes on the wire. V-FRM-4 and U5: header types 0 and 3 are no frame of the block, and the model refuses them
by name. -/
def Obligations.FrameByteExamples : Prop :=
  decodeFrame [0x80, 0xFF, 0x00, 0x00, 0x00, 0x00] = .ok (.spiRd 0x00) ∧
  decodeFrame [0xBF, 0xFF, 0x00, 0x00, 0x00, 0x00] = .ok (.spiRd 0x3F) ∧
  decodeFrame [0x40, 0x18, 0x00, 0x00, 0x00] = .ok (.spiWr 0x00 0x00000018) ∧
  decodeFrame [0x4C, 0x00, 0x50, 0x00, 0x00] = .ok (.spiWr 0x0C 0x00000A00) ∧
  decodeFrame [0x7F, 0x80, 0x00, 0x00, 0x01] = .ok (.spiWr 0x3F 0x80000001) ∧
  decodeFrame [0x20, 0x00, 0x00, 0x00, 0x00, 0x00] = .error .frameType ∧
  decodeFrame [0xC0, 0x00, 0x00, 0x00, 0x00] = .error .frameType

/-- Decode and encode agree: every instruction, with every value of its operands and whatever the turnaround byte is,
is what the decoder of its port reads from its bytes (R86, R87, R91, R92). -/
def Obligations.DecodeOfEncode : Prop :=
  ∀ (turnaround : Byte) (i : Instr), decode i.port (encode turnaround i) = .ok i

/-- Each request word has one meaning: a word that decodes is the word the decoded operation encodes to (R86, R87). -/
def Obligations.RequestWordHasOneMeaning : Prop :=
  ∀ (q : RequestWord) (i : Instr), decodeRequest q = .ok i → i.port = .request ∧ encodeRequest i = q

/-- R87, R89 (2) to (4): a word is refused as ReservedOp exactly when its OP is none of the ten codes, and as
NonzeroField exactly when its OP is one of them and a field that must be zero is not. -/
def Obligations.UndecodableWords : Prop :=
  ∀ q : RequestWord,
    (decodeRequest q = .error .reservedOp ↔ ¬(1 ≤ (opField q).toNat ∧ (opField q).toNat ≤ 10)) ∧
    (decodeRequest q = .error .nonzeroField ↔
      (1 ≤ (opField q).toNat ∧ (opField q).toNat ≤ 10) ∧
        (mbzField q ≠ 0 ∨ ((opField q).toNat ∉ [5, 6] ∧ regField q ≠ 0) ∨
          ((opField q).toNat ∈ [1, 2, 3, 4, 5, 7] ∧ argField q ≠ 0)))

/-- R90: the header of a frame carries the type in bits 1:0 and the register address in bits 7:2. -/
def Obligations.FrameHeaderFields : Prop :=
  ∀ a : RegAddr,
    headerType (frameHeader a typeRead) = 1 ∧ headerReg (frameHeader a typeRead) = a ∧
    headerType (frameHeader a typeWrite) = 2 ∧ headerReg (frameHeader a typeWrite) = a

/-- R48, R91, R92: a register value crosses the wire unchanged both ways, and the two reply bytes the block ignores do
not matter (R57). -/
def Obligations.ValueCrossesTheWire : Prop :=
  ∀ (v : Word) (a : RegAddr) (x y : Byte),
    writeFrameValue (writeFrame a v) = v ∧ replyValue (x :: y :: (leBytes v).map rev8) = v

/-! ## The codec -/

/-- R102: the laws of `rev8`. -/
def Obligations.CodecLaws : Prop :=
  (∀ x : Byte, rev8 (rev8 x) = x) ∧ rev8 0x00 = 0x00 ∧ rev8 0xFF = 0xFF ∧ rev8 0x01 = 0x80 ∧
  Function.Bijective rev8 ∧
  (∀ a b : Byte, rev8 (a &&& b) = rev8 a &&& rev8 b) ∧ (∀ a b : Byte, rev8 (a ||| b) = rev8 a ||| rev8 b) ∧
  (∀ a b : Byte, rev8 (a ^^^ b) = rev8 a ^^^ rev8 b) ∧ (∀ a : Byte, rev8 (~~~a) = ~~~(rev8 a)) ∧
  (∀ b : Byte, (rev8 b).getLsbD 7 = b.getLsbD 0)

/-- R100 and R101: bit `i` of `rev8 b` is bit `7 - i` of `b`, and the nibble-table form is the same function. -/
def Obligations.NibbleTableIsReversal : Prop :=
  ∀ b : Byte, rev8ByNibbles b = rev8 b ∧ ∀ i, i < 8 → (rev8 b).getLsbD i = b.getLsbD (7 - i)

/-- R103 and R104: the in-place form reverses the first `n` bytes and, applied twice, restores the buffer; the copy
form gives the reversals of the source in a destination of equal length. What the in-place form does for an `n` that is
not the buffer's length is the model's choice (log 28). -/
def Obligations.BufferForms : Prop :=
  (∀ (buf : List Byte) (n : Nat), rev8InPlace buf n = (buf.take n).map rev8 ++ buf.drop n) ∧
  (∀ (buf : List Byte) (n : Nat), rev8InPlace (rev8InPlace buf n) n = buf) ∧
  (∀ src dst : List Byte, src.length = dst.length → rev8Copy src dst src.length = src.map rev8)

/-! ## Geometry -/

/-- R140 to R145: the decoder on every word, cell by cell. That the formula is exact and that a shift limit refuses a
word is the spec's decision D28 (R144). -/
def Obligations.GeometryByCell : Prop :=
  ∀ (limit : Option Nat) (raw : Word),
    let c := controllerTypeOf raw
    let b := blockTypeOf raw
    let extra := extraOf raw
    let g := fun pages blocks fs => some (FlashGeometry.mk raw c b 512 pages blocks fs)
    let refused := ∃ n, limit = some n ∧ n ≤ extra + 23
    c = raw.extractLsb' 17 2 ∧ b = raw.extractLsb' 4 2 ∧
    extra = (raw.extractLsb' 19 2).toNat + (raw.extractLsb' 21 4).toNat ∧ extra ≤ 18 ∧
    (raw = 0 → decodeGeometry limit raw = none) ∧
    (c = 0 ∧ b = 1 → decodeGeometry limit raw = g 0x20 0x400 0x3E0) ∧
    (c = 0 ∧ b = 2 → decodeGeometry limit raw = g 0x20 0x800 0x7C0) ∧
    (c = 0 ∧ b = 3 → decodeGeometry limit raw = g 0x20 0x1000 0xF80) ∧
    (c = 1 ∧ b = 1 → decodeGeometry limit raw = g 0x20 0x400 0x3E0) ∧
    (c = 2 ∧ b = 1 → decodeGeometry limit raw = g 0x20 0x1000 0xF80) ∧
    ((c = 1 ∨ c = 2) ∧ b = 2 ∧ ¬refused → decodeGeometry limit raw = g 0x100 (2 ^ (extra + 6)) 0x1E0) ∧
    ((c = 1 ∨ c = 2) ∧ b = 3 ∧ ¬refused → decodeGeometry limit raw = g 0x200 (2 ^ (extra + 5)) 0xF0) ∧
    ((c = 1 ∨ c = 2) ∧ (b = 2 ∨ b = 3) ∧ refused → decodeGeometry limit raw = none) ∧
    (c = 3 ∨ b = 0 → decodeGeometry limit raw = none)

/-- R147: the ranges of a geometry that decodes, by its controller and block types. -/
def Obligations.GeometryRanges : Prop :=
  ∀ (limit : Option Nat) (raw : Word) (g : FlashGeometry), decodeGeometry limit raw = some g →
    g.pageSize = 512 ∧ g.pagesCount ∈ [0x20, 0x100, 0x200] ∧ g.fsBlocks ∈ [0x3E0, 0x7C0, 0xF80, 0x1E0, 0xF0] ∧
    (g.controllerType = 0 ∨ g.blockType = 1 → g.blocksCount ∈ [0x400, 0x800, 0x1000]) ∧
    (g.controllerType ≠ 0 ∧ g.blockType = 2 → ∃ e, 6 ≤ e ∧ e ≤ 24 ∧ g.blocksCount = 2 ^ e) ∧
    (g.controllerType ≠ 0 ∧ g.blockType = 3 → ∃ e, 5 ≤ e ∧ e ≤ 23 ∧ g.blocksCount = 2 ^ e)

/-- R148: two nonzero words that agree on bits 5:4 and 18:17, and in a formula cell on bits 20:19 and 24:21, decode
alike, apart from `raw`. The filesystem blocks of two words of one formula cell are equal whatever `extra` is. -/
def Obligations.GeometryIgnoresOtherBits : Prop :=
  ∀ (limit : Option Nat) (raw raw' : Word), raw ≠ 0 → raw' ≠ 0 →
    raw.extractLsb' 4 2 = raw'.extractLsb' 4 2 → raw.extractLsb' 17 2 = raw'.extractLsb' 17 2 →
    let formula := raw.extractLsb' 17 2 ∈ [1#2, 2#2] ∧ raw.extractLsb' 4 2 ∈ [2#2, 3#2]
    ((formula → raw.extractLsb' 19 2 = raw'.extractLsb' 19 2 ∧ raw.extractLsb' 21 4 = raw'.extractLsb' 21 4) →
      (decodeGeometry limit raw).map (fun g => { g with raw := 0 }) =
        (decodeGeometry limit raw').map (fun g => { g with raw := 0 })) ∧
    (formula → ∀ g g', decodeGeometry limit raw = some g → decodeGeometry limit raw' = some g' →
      g.fsBlocks = g'.fsBlocks)

/-! ## Steps, refusals -/

/-- A step runs the decoded instruction: in IDLE, a request word that decodes, or a frame that decodes, is the
instruction `exec` runs on the state with that input taken (R88, R89). -/
def Obligations.StepRunsDecodedInstruction : Prop :=
  ∀ (s : State) (rest : List Input) (i : Instr), s.seq = .idle →
    (∀ q, s.inputs = .request q :: rest → decodeRequest q = .ok i → step s = exec i { s with inputs := rest }) ∧
    (∀ tx, s.inputs = .frame tx :: rest → decodeFrame tx = .ok i → step s = exec i { s with inputs := rest })

/-- A request word that does not decode is refused (R89, R205): Halted before the decoder's own reason; only RESULT,
REFUSED and the observation change. A byte sequence that is no frame is refused by the model by name (R90, R95, U5). -/
def Obligations.StepRefusesUndecodable : Prop :=
  ∀ (s : State) (rest : List Input), s.seq = .idle →
    (∀ q reason, s.inputs = .request q :: rest → decodeRequest q = .error reason →
      step s = .next { s with
        inputs := rest
        result := some 0xF0
        refused := true
        trace := []
        refusal := some (if s.halted then .halted else reason) }) ∧
    (∀ tx, s.inputs = .frame tx :: rest → decodeFrame tx = .error .frameType → step s = .refused .frameType) ∧
    (∀ tx, s.inputs = .frame tx :: rest → decodeFrame tx = .error .frameLength → step s = .refused .frameLength)

/-- R205, R209 (1): an instruction that is not admitted emits nothing, writes RESULT 0xF0 and REFUSED, and leaves every
other field; Halted comes before Precondition. -/
def Obligations.UnadmittedIsRefused : Prop :=
  ∀ (i : Instr) (s : State), s.halted = true ∨ ready i s = false →
    exec i s = .next { s with
      result := some 0xF0
      refused := true
      trace := []
      refusal := some (if s.halted then .halted else .precondition) }

/-! ## The Register Link -/

/-- R118: OPEN with the link closed emits its seven events and opens the link; with the link open it emits nothing and
returns OK. Nothing else of the block changes. -/
def Obligations.OpenCompletes : Prop :=
  ∀ s : State, s.halted = false → s.TransportCompletes →
    (s.linkOpen = true → exec .openLink s = .next (s.completed .openLink 0x00 [])) ∧
    (s.linkOpen = false → exec .openLink s = .next
      { s.completed .openLink 0x00
          [.pinDir .hsA, .pinDir .hsB, .pinDir .csN, .pin .hsA true, .pin .hsB true, .pin .csN true,
            .chanOpen s.params.fSclk] with
        linkOpen := true
        pins := ⟨⟨.output, some true⟩, ⟨.output, some true⟩, ⟨.output, some true⟩⟩ })

/-- R120: CLOSE with the link open emits its four events, closes the link and ends the session; the pins stay
configured as they were. Whether a reference device is in flash mode afterwards is a free value (U6, log 26). -/
def Obligations.CloseCompletes : Prop :=
  ∀ s : State, s.halted = false → s.linkOpen = true → s.TransportCompletes →
    exec .closeLink s = .next
      { s.completed .closeLink 0x00 [.chanClose, .pin .hsA true, .pin .hsB true, .pin .csN true] with
        linkOpen := false
        initialized := false
        geometry := none
        pins := ⟨⟨s.pins.hsA.dir, some true⟩, ⟨s.pins.hsB.dir, some true⟩, ⟨s.pins.csN.dir, some true⟩⟩
        device := s.device.closed (Config.freeBool s.draws)
        draws := s.draws + 1 }

/-- R121: ENTER with the link open emits its nine events; afterwards the levels of HS_A, HS_B and CS_N are 1, 1 and 0;
the session is unchanged. The device has seen the whole sequence. -/
def Obligations.EnterCompletes : Prop :=
  ∀ s : State, s.halted = false → s.linkOpen = true → s.TransportCompletes →
    exec .enter s = .next
      { s.completed .enter 0x00
          [.pin .hsA false, .delay s.params.tHs, .pin .csN false, .pin .hsB false, .delay s.params.tHs,
            .pin .hsA true, .pin .hsB true, .delay s.params.tHs, .pin .csN false] with
        pins := ⟨⟨s.pins.hsA.dir, some true⟩, ⟨s.pins.hsB.dir, some true⟩, ⟨s.pins.csN.dir, some false⟩⟩
        device := s.device.entered }

/-- R124, R125: LEAVE with the link open emits P_LEAVE_SEQ and ends the session; for an admissible sequence all three
lines are at 1 afterwards. -/
def Obligations.LeaveCompletes : Prop :=
  ∀ s : State, s.halted = false → s.linkOpen = true → s.TransportCompletes →
    leaveSeqAdmissible s.params.leaveSeq = true →
    exec .leave s = .next
      { s.completed .leave 0x00 (s.params.leaveSeq.map (leaveEvent s.params)) with
        initialized := false
        geometry := none
        pins := ⟨⟨s.pins.hsA.dir, some true⟩, ⟨s.pins.hsB.dir, some true⟩, ⟨s.pins.csN.dir, some true⟩⟩
        device := s.device.left }

/-- R125: an admissible P_LEAVE_SEQ has for each line a last `Pin` event, which drives level 1; the default is
admissible, and from the levels ENTER leaves, HS_A and HS_B at 1, its levels after each group are those listed. -/
def Obligations.LeaveSequences : Prop :=
  (∀ seq : List LeaveStep, leaveSeqAdmissible seq = true ↔
    ∀ l, ∃ before after, seq = before ++ .pin l true :: after ∧ ∀ level, .pin l level ∉ after) ∧
  leaveSeqAdmissible defaultLeaveSeq = true ∧
  ∀ p : Params,
    defaultLeaveSeq.map (leaveEvent p) =
      [.pin .csN true, .delay p.tHs, .pin .hsB false, .pin .hsA false, .delay p.tHs, .pin .hsB true, .pin .csN true,
        .delay p.tHs, .pin .hsA true] ∧
    ∀ ps : Pins, ps.hsA.level = some true → ps.hsB.level = some true →
      let after := fun n => (defaultLeaveSeq.take n).foldl (fun qs e => drivePins (leaveEvent p e) qs) ps
      let levels := fun n => ((after n).hsA.level, (after n).hsB.level, (after n).csN.level)
      levels 2 = (some true, some true, some true) ∧ levels 5 = (some false, some false, some true) ∧
      levels 8 = (some false, some true, some true) ∧ levels 9 = (some true, some true, some true)

/-- R128 with R111 and R127: RDREG sends one read frame inside one chip-select pulse and puts the value of the device's
reply into VALUE. -/
def Obligations.RdregCompletes : Prop :=
  ∀ (a : RegAddr) (s : State), s.halted = false → s.linkOpen = true → s.TransportCompletes →
    let tx := readFrame s.params.turnaround a
    let r := s.device.respond s.params tx s.draws
    exec (.rdreg a) s = .next
      { s.completed (.rdreg a) 0x00
          [.pin .csN false, .delay s.params.tSettle, .xfer tx r.bytes, .pin .csN true] with
        value := some (le32 (rev8 (byteAt r.bytes 2)) (rev8 (byteAt r.bytes 3)) (rev8 (byteAt r.bytes 4))
          (rev8 (byteAt r.bytes 5)))
        pins := s.pins.csHigh
        device := r.device
        draws := r.draws
        latches := { s.latches with reg := some a, arg := some 0, tx := some tx, rx := some r.bytes } }

/-- R131 with R111 and R130: WRREG sends one write frame inside one chip-select pulse; the reply has no effect on the
block besides the RX latch, and VALUE is unchanged. -/
def Obligations.WrregCompletes : Prop :=
  ∀ (a : RegAddr) (v : Word) (s : State), s.halted = false → s.linkOpen = true → s.TransportCompletes →
    let tx := writeFrame a v
    let r := s.device.respond s.params tx s.draws
    exec (.wrreg a v) s = .next
      { s.completed (.wrreg a v) 0x00
          [.pin .csN false, .delay s.params.tSettle, .xfer tx r.bytes, .pin .csN true] with
        pins := s.pins.csHigh
        device := r.device
        draws := r.draws
        latches := { s.latches with reg := some a, arg := some v, tx := some tx, rx := some r.bytes } }

/-- R127: the read frame as a transaction of its own: four events and the reply in RX; RESULT and VALUE are unchanged
("Flags: none"). That a frame can be put on the channel by itself is the model's choice (log 7). -/
def Obligations.ReadFrameCompletes : Prop :=
  ∀ (a : RegAddr) (s : State), s.halted = false → s.linkOpen = true → s.TransportCompletes →
    let tx := readFrame s.params.turnaround a
    let r := s.device.respond s.params tx s.draws
    exec (.spiRd a) s = .next
      { s.completed (.spiRd a) 0x00
          [.pin .csN false, .delay s.params.tSettle, .xfer tx r.bytes, .pin .csN true] with
        result := s.result
        pins := s.pins.csHigh
        device := r.device
        draws := r.draws
        latches := { s.latches with reg := some a, arg := some 0, tx := some tx, rx := some r.bytes } }

/-- R130: the write frame as a transaction of its own: four events; RESULT and VALUE are unchanged. That a frame can be
put on the channel by itself is the model's choice (log 7). -/
def Obligations.WriteFrameCompletes : Prop :=
  ∀ (a : RegAddr) (v : Word) (s : State), s.halted = false → s.linkOpen = true → s.TransportCompletes →
    let tx := writeFrame a v
    let r := s.device.respond s.params tx s.draws
    exec (.spiWr a v) s = .next
      { s.completed (.spiWr a v) 0x00
          [.pin .csN false, .delay s.params.tSettle, .xfer tx r.bytes, .pin .csN true] with
        result := s.result
        pins := s.pins.csHigh
        device := r.device
        draws := r.draws
        latches := { s.latches with reg := some a, arg := some v, tx := some tx, rx := some r.bytes } }

/-! ## INIT -/

/-- R160: INIT of a session that exists emits nothing, shows the cached raw word and returns OK. -/
def Obligations.InitWhenInitialized : Prop :=
  ∀ (s : State) (g : FlashGeometry), s.halted = false → s.initialized = true → s.geometry = some g →
    exec .init s = .next { s.completed .init 0x00 [] with value := some g.raw }

/-- R161: INIT without a session opens the link if it is closed, runs ENTER's body, reads the configuration register
twice and caches the geometry of the second read; the first is discarded. -/
def Obligations.InitCompletes : Prop :=
  ∀ (s : State) (g : FlashGeometry), s.halted = false → s.initialized = false → s.TransportCompletes →
    let tx := readFrame s.params.turnaround s.params.regConfig
    let r1 := s.device.entered.respond s.params tx s.draws
    let r2 := r1.device.respond s.params tx r1.draws
    decodeGeometry s.params.geomShiftLimit (replyValue r2.bytes) = some g →
    exec .init s = .next { s.initDone 0x00 with geometry := some g, initialized := true }

/-- R162: INIT whose second configuration read does not decode ends with INVALID_GEOMETRY: no session, the raw word in
VALUE, the link left open. -/
def Obligations.InitInvalidGeometry : Prop :=
  ∀ s : State, s.halted = false → s.initialized = false → s.TransportCompletes →
    let tx := readFrame s.params.turnaround s.params.regConfig
    let r1 := s.device.entered.respond s.params tx s.draws
    let r2 := r1.device.respond s.params tx r1.draws
    decodeGeometry s.params.geomShiftLimit (replyValue r2.bytes) = none →
    exec .init s = .next { s.initDone 0x10 with geometry := none, initialized := false }

/-- R234: the minimal boot. From reset, for any parameters and any device whose second configuration read after ENTER
is 0x00000010, a step that serves INIT ends with RESULT 0x00, VALUE 0x00000010, an open link, the session and 24
events. -/
def Obligations.MinimalBoot : Prop :=
  ∀ (p : Params) (d : Device),
    let tx := readFrame p.turnaround p.regConfig
    let r1 := d.entered.respond p tx 0
    let r2 := r1.device.respond p tx r1.draws
    replyValue r2.bytes = 0x00000010 →
    ∃ t, step ((State.resetWith p d).withFetchWord 48 0x000000000007) = .next t ∧
      t.result = some 0x00 ∧ t.value = some 0x00000010 ∧ t.linkOpen = true ∧ t.initialized = true ∧
      t.geometry = some ⟨0x00000010, 0, 1, 512, 0x20, 0x400, 0x3E0⟩ ∧ t.trace.length = 24

/-! ## Wait-ready -/

/-- R164: wait-ready reads the status register until a read shows it ready, at most P_POLL_MAX times, with a delay
between two reads: either the last of `k ≤ P_POLL_MAX` reads is the first ready one, `5k - 1` events, or all P_POLL_MAX
reads are busy, `5 P_POLL_MAX - 1` events and Timeout. -/
def Obligations.WaitReadyPolls : Prop :=
  ∀ (stage : Stage) (s : State), s.TransportCompletes → 1 ≤ s.params.pollMax →
    (∃ (rxs : List (List Byte)) (rx : List Byte) (t : State),
      waitReady stage s = .ok () t ∧ rxs.length + 1 ≤ s.params.pollMax ∧
      (∀ r ∈ rxs, statusBusy s.params r = true) ∧ statusBusy s.params rx = false ∧
      t.trace = s.trace ++ pollEvents s.params (rxs ++ [rx]) ∧
      (pollEvents s.params (rxs ++ [rx])).length + 1 = 5 * (rxs.length + 1)) ∨
    (∃ (rxs : List (List Byte)) (t : State),
      waitReady stage s = .ended (.raised (.timeout stage)) t ∧ rxs.length = s.params.pollMax ∧
      (∀ r ∈ rxs, statusBusy s.params r = true) ∧
      t.trace = s.trace ++ pollEvents s.params rxs ∧
      (pollEvents s.params rxs).length + 1 = 5 * s.params.pollMax)

/-! ## The sector requests -/

/-- R169, R170: RDSEC on an initialized block ends with OK or with TIMEOUT_READ. If the device shows ready at the first
poll it ends with OK after 1080 events. If it ends with OK, the device was ready at poll `k`, the trace is the listed
transactions with `k` polls, `1075 + 5k` events, and SB holds the 132 words read, byte `k` of word `i` at `4i + k`;
nothing else of the block changes. -/
def Obligations.RdsecCompletes : Prop :=
  ∀ (lba : Word) (s : State), s.halted = false → s.initialized = true → sbWf s.sb = true → s.TransportCompletes →
    1 ≤ s.params.pollMax →
    ∃ t, exec (.rdsec lba) s = .next t ∧ (t.result = some 0x00 ∨ t.result = some 0x01) ∧
      (s.device.readyFor s.params 270 s.draws → t.result = some 0x00 ∧ t.trace.length = 1080) ∧
      (t.result = some 0x00 →
        ∃ (r w : Nat → List Byte) (polls : List (List Byte)) (es : List BusEvent) (sb : Memory) (d : Device) (k : Nat)
          (l : Latches),
          readyPolls s.params polls ∧
          es = transactionEvents s.params (readCommandTransactions s.params lba r) ++ pollEvents s.params polls ++
            transactionEvents s.params (.write s.params.regAddress 0 (r 4) :: readWordTransactions s.params w) ∧
          es.length = 1075 + 5 * polls.length ∧
          t = { s.completed (.rdsec lba) 0x00 es with
            sb := sb, pins := s.pins.csHigh, device := d, draws := k, latches := l } ∧
          (∀ i j, i < 132 → j < 4 → sb.read (4 * i + j) = (leBytes (replyValue (w (2 * i + 1))))[j]?) ∧
          sbWf sb = true ∧ l.reg = some 0 ∧ l.arg = some lba)

/-- R169, R170, S-7: a RDSEC that ends with TIMEOUT_READ saw busy at P_POLL_MAX status reads, `15 + 5 P_POLL_MAX`
events; SB is unchanged and no pointer reset or data read is sent. A device that shows busy at every poll ends it
so. -/
def Obligations.RdsecTimesOut : Prop :=
  ∀ (lba : Word) (s : State), s.halted = false → s.initialized = true → s.TransportCompletes →
    1 ≤ s.params.pollMax →
    (s.device.busyFor s.params (4 + s.params.pollMax) s.draws →
      ∃ t, exec (.rdsec lba) s = .next t ∧ t.result = some 0x01) ∧
    ∀ t, exec (.rdsec lba) s = .next t → t.result = some 0x01 →
      ∃ (r : Nat → List Byte) (polls : List (List Byte)) (es : List BusEvent) (d : Device) (k : Nat) (l : Latches),
        busyPolls s.params polls ∧
        es = transactionEvents s.params (readCommandTransactions s.params lba r) ++ pollEvents s.params polls ∧
        es.length = 15 + 5 * s.params.pollMax ∧
        t = { s.completed (.rdsec lba) 0x01 es with pins := s.pins.csHigh, device := d, draws := k, latches := l } ∧
        l.reg = some 0 ∧ l.arg = some lba

/-- R172: ERASE on an initialized block ends with OK or with TIMEOUT_ERASE. If the device shows ready at the first poll
it ends with OK after 36 events. If it ends with OK, the device was ready at poll `k` and the trace is the listed
transactions with `k` polls, `31 + 5k` events; nothing else of the block changes. -/
def Obligations.EraseCompletes : Prop :=
  ∀ (lba : Word) (s : State), s.halted = false → s.initialized = true → s.TransportCompletes →
    1 ≤ s.params.pollMax →
    ∃ t, exec (.erase lba) s = .next t ∧ (t.result = some 0x00 ∨ t.result = some 0x02) ∧
      (s.device.readyFor s.params 9 s.draws → t.result = some 0x00 ∧ t.trace.length = 36) ∧
      (t.result = some 0x00 →
        ∃ (r : Nat → List Byte) (polls : List (List Byte)) (es : List BusEvent) (d : Device) (k : Nat) (l : Latches),
          readyPolls s.params polls ∧
          es = transactionEvents s.params (eraseTransactions s.params lba r) ++ pollEvents s.params polls ∧
          es.length = 31 + 5 * polls.length ∧
          t = { s.completed (.erase lba) 0x00 es with pins := s.pins.csHigh, device := d, draws := k, latches := l } ∧
          l.reg = some 0 ∧ l.arg = some lba)

/-- R172: an ERASE that ends with TIMEOUT_ERASE saw busy at P_POLL_MAX status reads, `31 + 5 P_POLL_MAX` events; the
session stays (R213). A device that shows busy at every poll ends it so. -/
def Obligations.EraseTimesOut : Prop :=
  ∀ (lba : Word) (s : State), s.halted = false → s.initialized = true → s.TransportCompletes →
    1 ≤ s.params.pollMax →
    (s.device.busyFor s.params (8 + s.params.pollMax) s.draws →
      ∃ t, exec (.erase lba) s = .next t ∧ t.result = some 0x02) ∧
    ∀ t, exec (.erase lba) s = .next t → t.result = some 0x02 →
      ∃ (r : Nat → List Byte) (polls : List (List Byte)) (es : List BusEvent) (d : Device) (k : Nat) (l : Latches),
        busyPolls s.params polls ∧
        es = transactionEvents s.params (eraseTransactions s.params lba r) ++ pollEvents s.params polls ∧
        es.length = 31 + 5 * s.params.pollMax ∧
        t = { s.completed (.erase lba) 0x02 es with pins := s.pins.csHigh, device := d, draws := k, latches := l } ∧
        l.reg = some 0 ∧ l.arg = some lba

/-- R175, R176, R178 (5): WRSEC on an initialized block with a full SB ends with OK or with a timeout of one of its
stages. If the device shows ready at the first poll of each stage it ends with OK after 1132 events at a first sector
and 1096 otherwise. If it ends with OK, the trace is its parts in order, at a first sector the erase first, each with
the polls of its wait-ready; SB and the rest of the block are unchanged. -/
def Obligations.WrsecCompletes : Prop :=
  ∀ (lba : Word) (s : State) (g : FlashGeometry), s.halted = false → s.initialized = true → s.geometry = some g →
    sbFull s.sb = true → s.TransportCompletes → 1 ≤ s.params.pollMax →
    let first := lba.toNat % g.pagesCount == 0
    ∃ t, exec (.wrsec lba) s = .next t ∧ (∃ c ∈ [0x00, 0x02, 0x03, 0x04, 0x05], t.result = some c) ∧
      (s.device.readyFor s.params 283 s.draws →
        t.result = some 0x00 ∧ t.trace.length = if first then 1132 else 1096) ∧
      (t.result = some 0x00 →
        ∃ (e r w : Nat → List Byte) (polls : Stage → List (List Byte)) (d : Device) (k : Nat) (l : Latches),
          (∀ part ∈ wrsecParts s.params lba s.sb first e r w, readyPolls s.params (polls part.1)) ∧
          t = { s.completed (.wrsec lba) 0x00
              (stageEvents s.params polls (wrsecParts s.params lba s.sb first e r w)) with
            pins := s.pins.csHigh, device := d, draws := k, latches := l } ∧
          t.trace.length =
            1081 + 5 * ((polls .writeData).length + (polls .writeAddress).length + (polls .writeExecute).length) +
              (if first then 31 + 5 * (polls .erase).length else 0) ∧
          l.reg = some 0 ∧ l.arg = some lba)

/-- R175, R176, R177, R200: a WRSEC that ends with the code of a stage, 0x02 to 0x05 in the order ERASE, WRITE_DATA,
WRITE_ADDRESS, WRITE_EXECUTE, saw every stage before it ready and busy at all P_POLL_MAX polls of that one, and has
sent the parts up to that stage and nothing after; the erase is a stage only at a first sector. A device that shows
busy at every poll ends it at its first stage. -/
def Obligations.WrsecTimesOut : Prop :=
  ∀ (lba : Word) (s : State) (g : FlashGeometry), s.halted = false → s.initialized = true → s.geometry = some g →
    sbFull s.sb = true → s.TransportCompletes → 1 ≤ s.params.pollMax →
    let first := lba.toNat % g.pagesCount == 0
    (s.device.busyFor s.params (267 + s.params.pollMax) s.draws →
      ∃ t, exec (.wrsec lba) s = .next t ∧ t.result = some (if first then 0x02 else 0x03)) ∧
    ∀ t stage code,
      (stage, code) ∈ [(Stage.erase, 0x02), (.writeData, 0x03), (.writeAddress, 0x04), (.writeExecute, 0x05)] →
      exec (.wrsec lba) s = .next t → t.result = some code →
      ∃ (e r w : Nat → List Byte) (polls : Stage → List (List Byte)) (before rest : List StagePart)
        (part : List Transaction) (d : Device) (k : Nat) (l : Latches),
        wrsecParts s.params lba s.sb first e r w = before ++ (stage, part) :: rest ∧
        (∀ x ∈ before, readyPolls s.params (polls x.1)) ∧ busyPolls s.params (polls stage) ∧
        t = { s.completed (.wrsec lba) code (stageEvents s.params polls (before ++ [(stage, part)])) with
          pins := s.pins.csHigh, device := d, draws := k, latches := l } ∧
        l.reg = some 0 ∧ l.arg = some lba

/-- R179: in the trace of a WRSEC that completes, the erase shows as exactly one write of P_CMD_E_EXEC to the command
register at a first sector, and as none otherwise. The source does not say that registers and commands differ (N7,
N19), so the claim says it. -/
def Obligations.EraseCount : Prop :=
  ∀ (lba : Word) (s t : State) (g : FlashGeometry), s.halted = false → s.initialized = true → s.geometry = some g →
    sbFull s.sb = true → s.TransportCompletes → distinctRegisters s.params = true →
    distinctCommands s.params = true →
    exec (.wrsec lba) s = .next t → t.result = some 0x00 →
    ((transfersOf t.trace).filter fun x => x.1 == writeFrame s.params.regCommand s.params.cmdEExec).length =
      (if lba.toNat % g.pagesCount = 0 then 1 else 0)

/-- R46, R47, R178 (4): two LBAs that differ by a multiple of 2^23 have one byte address, a multiple of 512 (R52), and
RDSEC and ERASE of the one cannot be told from those of the other by trace, result, SB or device. The same holds of
WRSEC in a state of the invariant, in which the sectors of an erase block divide 2^23. -/
def Obligations.LbaWraps : Prop :=
  ∀ (lba m : Word) (s t u : State),
    sectorAddress (lba + (m <<< 23)) = sectorAddress lba ∧
    sectorAddress lba = BitVec.ofNat 32 (lba.toNat * 512) ∧ (sectorAddress lba).toNat % 512 = 0 ∧
    (exec (.rdsec lba) s = .next t → exec (.rdsec (lba + (m <<< 23))) s = .next u →
      u.trace = t.trace ∧ u.result = t.result ∧ u.sb = t.sb ∧ u.device = t.device) ∧
    (exec (.erase lba) s = .next t → exec (.erase (lba + (m <<< 23))) s = .next u →
      u.trace = t.trace ∧ u.result = t.result ∧ u.sb = t.sb ∧ u.device = t.device) ∧
    (s.Inv → exec (.wrsec lba) s = .next t → exec (.wrsec (lba + (m <<< 23))) s = .next u →
      u.trace = t.trace ∧ u.result = t.result ∧ u.sb = t.sb ∧ u.device = t.device)

/-! ## Rules of the whole machine -/

/-- R55, R60: every transfer of a request that emits no handshake is answered by the device, in order: the replies in
the trace are those of the transfers sent one after the other, and so are the device and the draws afterwards, except
of CLOSE, which makes no transfer and leaves the device's mode free (log 26). -/
def Obligations.DeviceAnswersEveryTransfer : Prop :=
  ∀ (i : Instr) (s t : State), s.halted = false → ready i s = true → s.TransportCompletes →
    i ≠ .enter → i ≠ .leave → i ≠ .init → exec i s = .next t →
    let answered := Device.respondAll s.params ((transfersOf t.trace).map Prod.fst) s.device s.draws
    answered.1 = (transfersOf t.trace).map Prod.snd ∧ (i ≠ .closeLink → answered.2 = (t.device, t.draws))

/-- R202: a request that ends without a reset ends with one of the codes of its row; a frame put on the channel by
itself leaves RESULT as it was, or is refused or fails (log 7). -/
def Obligations.ResultCodesOfRequests : Prop :=
  ∀ (i : Instr) (s t : State), exec i s = .next t → s.NoReset → t.seq = .idle → s.seq = .idle →
    (i.port = .request → ∃ c ∈ codesOf i, t.result = some c) ∧
    (i.port = .link → t.result = s.result ∨ ∃ c ∈ codesOf i, t.result = some c)

/-- R30, R31, R207: no request clears REFUSED or HALTED; REFUSED becomes set only by a refusal, and HALTED only with
TRANSPORT_FAILURE after at least one event. -/
def Obligations.StickyFlags : Prop :=
  ∀ (i : Instr) (s t : State), exec i s = .next t → s.NoReset →
    (s.refused = true → t.refused = true) ∧ (s.halted = true → t.halted = true) ∧
    (s.refused = false → t.refused = true → t.result = some 0xF0 ∧ t.trace = []) ∧
    (s.halted = false → t.halted = true → t.result = some 0x20 ∧ t.seq = .idle ∧ t.trace ≠ [])

/-- R208: with a transport that always completes no request ends with TRANSPORT_FAILURE, and HALTED does not change. -/
def Obligations.CompletingTransportNeverFails : Prop :=
  ∀ (i : Instr) (s t : State), exec i s = .next t → s.TransportCompletes → s.result ≠ some 0x20 →
    t.halted = s.halted ∧ t.result ≠ some 0x20

/-- R29: only RDREG and INIT write VALUE; R27: only RDSEC writes SB; R43: no instruction writes the parameters; none
touches the host's pending inputs or what the host has read. (RST clears VALUE and SB.) -/
def Obligations.FrameOfOutputs : Prop :=
  ∀ (i : Instr) (s t : State), exec i s = .next t → s.NoReset →
    ((∀ a, i ≠ .rdreg a) → i ≠ .init → t.value = s.value) ∧
    ((∀ lba, i ≠ .rdsec lba) → t.sb = s.sb ∧ ∀ x, t.sb.read x = s.sb.read x) ∧
    t.params = s.params ∧ t.inputs = s.inputs ∧ t.seen = s.seen

/-- R21, R24, R180, R235: only INIT, CLOSE and LEAVE change `initialized` or the geometry, and only OPEN, CLOSE and INIT
change `link_open`; a timeout ends no session (R213). -/
def Obligations.FrameOfSession : Prop :=
  ∀ (i : Instr) (s t : State), exec i s = .next t → s.NoReset →
    (i ≠ .init → i ≠ .closeLink → i ≠ .leave → t.initialized = s.initialized ∧ t.geometry = s.geometry) ∧
    (i ≠ .openLink → i ≠ .closeLink → i ≠ .init → t.linkOpen = s.linkOpen)

/-- R45, R111: which lines a request can move. The sector requests, the register requests and the frames move CS_N
only, unless the transport fails, after which the levels are unknown (R207), and no direction changes but by OPEN's
body, in OPEN and INIT. That the directions stay across a transport failure is the model's choice (log 10). -/
def Obligations.FrameOfLines : Prop :=
  ∀ (i : Instr) (s t : State), exec i s = .next t → s.NoReset →
    (i ≠ .openLink → i ≠ .init →
      t.pins.hsA.dir = s.pins.hsA.dir ∧ t.pins.hsB.dir = s.pins.hsB.dir ∧ t.pins.csN.dir = s.pins.csN.dir) ∧
    (i ≠ .openLink → i ≠ .closeLink → i ≠ .enter → i ≠ .leave → i ≠ .init →
      t.halted = s.halted → t.pins.hsA = s.pins.hsA ∧ t.pins.hsB = s.pins.hsB)

/-- R21, R33, R205, R232: while the link is closed no request but INIT moves a byte on the SPI channel, and none but
OPEN and INIT emits an event or drives a line, whatever the transport does. That a frame put on the channel by itself
needs an open link and is refused without one is the model's choice (log 7, log 24). -/
def Obligations.NoTransferWhileClosed : Prop :=
  ∀ (i : Instr) (s t : State), s.Inv → s.linkOpen = false → i ≠ .init → exec i s = .next t →
    transfersOf t.trace = [] ∧ (i ≠ .openLink → t.trace = [] ∧ t.pins = s.pins)

/-- R207, R203, U16, R230: a request cut by the transport or by RST at its event number `n` has emitted exactly the
first `n` events it would otherwise emit. A failure adds the failed event, ends with TRANSPORT_FAILURE and HALTED, and
leaves the session, VALUE and SB, but in RDSEC, as they were before the request; `link_open` becomes true only if
OPEN's seven events completed in INIT (R118, R120, R124, R128, R163). The levels of the lines are unknown then, but
those of OPEN's events that completed stay, and no direction changes but by those events (R118; log 10). An action that never completes leaves the request running at step `n` (log 11).
RST in the middle of the request leaves every field of the block at its reset value; that it can be asserted just
before any event is the model's choice (log 12). -/
def Obligations.CutRequestEmitsPrefix : Prop :=
  ∀ (i : Instr) (s t : State) (n : Nat) (rest : List Answer), s.halted = false → ready i s = true →
    exec i { s with answers := [] } = .next t → n < t.trace.length →
    (∃ u, exec i { s with answers := List.replicate n .completes ++ .fails :: rest } = .next u ∧
      u.result = some 0x20 ∧ u.halted = true ∧ u.seq = .idle ∧ u.stepIdx = 0 ∧ u.trace.length = n + 1 ∧
      u.trace.take n = t.trace.take n ∧
      u.initialized = s.initialized ∧ u.geometry = s.geometry ∧ u.value = s.value ∧
      u.linkOpen = (s.linkOpen || decide (i = .init ∧ 7 ≤ n)) ∧ ((∀ lba, i ≠ .rdsec lba) → u.sb = s.sb) ∧
      ∀ e l, t.trace[n]? = some e → e.line ≠ some l →
        let before := (t.trace.take n).foldl (fun ps e => drivePins e ps) s.pins
        (u.pins.get l).dir = (before.get l).dir ∧
          (s.linkOpen = false → n < 7 → u.pins.get l = before.get l)) ∧
    (∃ u, exec i { s with answers := List.replicate n .completes ++ .never :: rest } = .next u ∧
      u.seq = .run i ∧ u.stepIdx = n ∧ u.result = s.result ∧ u.trace = t.trace.take n) ∧
    (∃ u, exec i { s with answers := List.replicate n .completes ++ .reset :: rest } = .next u ∧
      u = { State.resetWith s.params u.device with
        answers := rest, draws := u.draws, inputs := s.inputs, trace := t.trace.take n, seen := s.seen })

/-- R246: no request emits more bus events than its bound, whatever the device and the transport do. -/
def Obligations.TraceBounds : Prop :=
  ∀ (i : Instr) (s t : State), 1 ≤ s.params.pollMax → exec i s = .next t → t.trace.length ≤ traceBound s.params i

/-- R112: after an instruction that moved a byte, with a transport that completes, CS_N is at level 1, whatever the
result code. -/
def Obligations.ChipSelectReleased : Prop :=
  ∀ (i : Instr) (s t : State), s.TransportCompletes → exec i s = .next t → transfersOf t.trace ≠ [] →
    t.pins.csN.level = some true

/-- R33, R26, R27, R147, R200: the invariant holds after reset, whatever the device and the admissible parameters. -/
def Obligations.InvariantAtReset : Prop :=
  State.reset.Inv ∧ ∀ (p : Params) (d : Device), p.admissible = true → d.wf p = true → (State.resetWith p d).Inv

/-- R33, R26, R27, R147, R200: every step keeps the invariant: the session, the open link, the line directions, the
geometry's ranges, SB's form, RESULT's codes, the step counter, the parameters and the device's form. -/
def Obligations.StepKeepsInvariant : Prop :=
  ∀ s t : State, s.Inv → step s = .next t → t.Inv

/-! ## Reset and the host's port -/

/-- R44, R230, R231: RST, asserted in any state, gives every field of the block its reset value; the parameters are
untouched, and so is the device, unless a request was running, which leaves it unknown (R249, log 12). -/
def Obligations.ResetInput : Prop :=
  ∀ (s : State) (rest : List Input), s.inputs = .rst :: rest →
    step s = .next { s with
      inputs := rest
      linkOpen := false
      pins := ⟨⟨.unconfigured, none⟩, ⟨.unconfigured, none⟩, ⟨.unconfigured, none⟩⟩
      initialized := false
      geometry := none
      seq := .idle
      stepIdx := 0
      sb := []
      result := none
      value := none
      refused := false
      halted := false
      latches := ⟨none, none, none, none, none, none, none⟩
      device := if s.seq = .idle then s.device else s.device.lost }

/-- R27: the host reads back the bytes it loaded into SB, and a load leaves every other byte alone. -/
def Obligations.HostLoadsAndReadsSB : Prop :=
  ∀ (s : State) (off : Nat) (bytes : List Byte) (rest : List Input), s.seq = .idle → sbWf s.sb = true →
    off + bytes.length ≤ 528 → s.inputs = .loadSB off bytes :: .readSB off bytes.length :: rest →
    ∃ t u, step s = .next t ∧ step t = .next u ∧ u.seen = some (.bytes bytes) ∧ sbWf u.sb = true ∧
      (∀ x, x < off ∨ off + bytes.length ≤ x → u.sb.read x = s.sb.read x) ∧
      u = { s with sb := u.sb, inputs := rest, seen := u.seen }

/-- R27, U11, U14, R45: a host read of a byte or a register that has no value faults, and so does an access outside
SB. -/
def Obligations.ReadsWithoutValueFault : Prop :=
  ∀ (s : State) (rest : List Input), s.seq = .idle →
    (∀ off n x, s.inputs = .readSB off n :: rest → off + n ≤ 528 → off ≤ x → x < off + n → s.sb.read x = none →
      step s = .fault .sbByteNoValue) ∧
    (∀ off n, s.inputs = .readSB off n :: rest → 528 < off + n → step s = .fault .sbOutOfRange) ∧
    (∀ off bytes, s.inputs = .loadSB off bytes :: rest → 528 < off + bytes.length → step s = .fault .sbOutOfRange) ∧
    (s.inputs = .readResult :: rest → s.result = none → step s = .fault .resultNoValue) ∧
    (s.inputs = .readValue :: rest → s.value = none → step s = .fault .valueNoValue) ∧
    (s.inputs = .readGeometry :: rest → s.initialized = false → step s = .fault .geometryNoValue)

/-- R34: the host reads STAT at any time, its low byte bit by bit and RESULT if it has a value; RESULT, VALUE and the
geometry when they have one. That a STAT read succeeds while RESULT has no value, and that RESULT, VALUE and the
geometry can be read at any time, is the model's choice (log 20). -/
def Obligations.HostReadsOutputs : Prop :=
  ∀ (s : State) (rest : List Input),
    (s.inputs = .readStat :: rest → ∃ low,
      step s = .next { s with inputs := rest, seen := some (.stat low s.result) } ∧
      low.getLsbD 0 = decide (s.seq ≠ .idle) ∧ low.getLsbD 1 = s.linkOpen ∧ low.getLsbD 2 = s.initialized ∧
      low.getLsbD 3 = s.refused ∧ low.getLsbD 4 = s.halted ∧ low.extractLsb' 5 3 = 0 ∧
      s.stat = s.result.map fun r => r ++ low) ∧
    (∀ r, s.inputs = .readResult :: rest → s.result = some r →
      step s = .next { s with inputs := rest, seen := some (.result r) }) ∧
    (∀ v, s.inputs = .readValue :: rest → s.value = some v →
      step s = .next { s with inputs := rest, seen := some (.value v) }) ∧
    (∀ g, s.inputs = .readGeometry :: rest → s.initialized = true → s.geometry = some g →
      step s = .next { s with inputs := rest, seen := some (.geometry g) })

/-- R88, U16: while a request runs, which here means that its transport action never completes, the host has no move on
the request port, the channel or SB, and without an input nothing moves: the machine is stuck. With no input an idle
block waits (R230). -/
def Obligations.BusyHostWaits : Prop :=
  ∀ s : State,
    (s.seq = .idle → s.inputs = [] → step s = .next s) ∧
    (s.seq ≠ .idle → s.inputs = [] → step s = .fault .stuck) ∧
    (∀ q rest, s.seq ≠ .idle → s.inputs = .request q :: rest → step s = .fault .stuck) ∧
    (∀ tx rest, s.seq ≠ .idle → s.inputs = .frame tx :: rest → step s = .fault .stuck) ∧
    (∀ off bytes rest, s.seq ≠ .idle → s.inputs = .loadSB off bytes :: rest → step s = .fault .stuck) ∧
    (∀ off n rest, s.seq ≠ .idle → s.inputs = .readSB off n :: rest → step s = .fault .stuck)

/-! ## The assembler syntax -/

/-- R97, R98: what each line stands for. A line of a mnemonic without operand is its request; RDREG and WRREG take a
register number below 64 or one of the five names, and WRREG a value below 2^32; RDSEC, WRSEC and ERASE take an LBA
below 2^32. Each line is exactly one request, and its word is OP, REG and ARG in their places. That a number out of
range makes no request is the model's choice (log 19). -/
def Obligations.LinesAreRequests : Prop :=
  ∀ p : Params,
    let line := fun words : List (List Char) => (readLine words).bind fun l => l.toInstr p
    let names := [(['C', 'O', 'N', 'F', 'I', 'G'], p.regConfig), (['S', 'T', 'A', 'T', 'U', 'S'], p.regStatus),
      (['C', 'O', 'M', 'M', 'A', 'N', 'D'], p.regCommand), (['A', 'D', 'D', 'R', 'E', 'S', 'S'], p.regAddress),
      (['D', 'A', 'T', 'A'], p.regData)]
    (line [['O', 'P', 'E', 'N']] = some .openLink ∧ line [['C', 'L', 'O', 'S', 'E']] = some .closeLink ∧
      line [['E', 'N', 'T', 'E', 'R']] = some .enter ∧ line [['L', 'E', 'A', 'V', 'E']] = some .leave ∧
      line [['I', 'N', 'I', 'T']] = some .init) ∧
    (∀ x ∈ names, line [['R', 'D', 'R', 'E', 'G'], x.1] = some (.rdreg x.2) ∧
      ∀ u v, readNumber u = some v →
        line [['W', 'R', 'R', 'E', 'G'], x.1, [','], u] =
          if v < 2 ^ 32 then some (.wrreg x.2 (BitVec.ofNat 32 v)) else none) ∧
    (∀ t n, readNumber t = some n →
      line [['R', 'D', 'R', 'E', 'G'], t] = (if n < 64 then some (.rdreg (BitVec.ofNat 6 n)) else none) ∧
      (∀ u v, readNumber u = some v →
        line [['W', 'R', 'R', 'E', 'G'], t, [','], u] =
          if n < 64 ∧ v < 2 ^ 32 then some (.wrreg (BitVec.ofNat 6 n) (BitVec.ofNat 32 v)) else none) ∧
      line [['R', 'D', 'S', 'E', 'C'], t] = (if n < 2 ^ 32 then some (.rdsec (BitVec.ofNat 32 n)) else none) ∧
      line [['W', 'R', 'S', 'E', 'C'], t] = (if n < 2 ^ 32 then some (.wrsec (BitVec.ofNat 32 n)) else none) ∧
      line [['E', 'R', 'A', 'S', 'E'], t] = (if n < 2 ^ 32 then some (.erase (BitVec.ofNat 32 n)) else none)) ∧
    ([Instr.openLink, .closeLink, .enter, .leave, .init].map fun i => (encodeRequest i).toNat) = [1, 2, 3, 4, 7] ∧
    (∀ (a : RegAddr) (v : Word),
      (encodeRequest (.rdreg a)).toNat = 5 + a.toNat * 2 ^ 8 ∧
      (encodeRequest (.wrreg a v)).toNat = 6 + a.toNat * 2 ^ 8 + v.toNat * 2 ^ 16 ∧
      (encodeRequest (.rdsec v)).toNat = 8 + v.toNat * 2 ^ 16 ∧
      (encodeRequest (.wrsec v)).toNat = 9 + v.toNat * 2 ^ 16 ∧
      (encodeRequest (.erase v)).toNat = 10 + v.toNat * 2 ^ 16) ∧
    ∀ l : AsmLine, (l.wellFormed = true ↔ ∃ i, l.toInstr p = some i) ∧ ∀ i, l.toInstr p = some i → i.port = .request

/-! ## The reference device -/

/-- R77: a reference device that is never made busy answers every status read as ready, whatever the block sends. The
RDM is the premise (R80). -/
def Obligations.QuietReferenceDeviceIsReady : Prop :=
  ∀ (p : Params) (r : Rdm) (n k : Nat), r.quiet = true → Device.readyFor p n (.rdm r) k

/-- R79, cases (1), (2) and (6), as the NAND array shows them byte by byte: an execute command with its history and
enable erases the addressed erase block, or programs the addressed sector, which only clears bits; every other command
value, and every other byte, leaves the array as it was, and no command writes a register. -/
def Obligations.ReferenceDeviceArrayWrites : Prop :=
  ∀ (p : Params) (r : Rdm) (v : Word), r.wf p = true →
    let s := r.addressedSector p
    let spb := r.sectorsPerBlock p
    let erases := v = p.cmdEExec ∧ r.hist = [p.cmdEUnlock, p.cmdEConfirm] ∧ r.regAt p.regConfig &&& p.weMask ≠ 0
    let programs := ¬erases ∧ v = p.cmdWExec ∧ r.hist = [p.cmdWUnlock, p.cmdWConfirm] ∧
      r.regAt p.regConfig &&& p.weMask ≠ 0
    (r.command p v).reg = r.reg ∧
    ∀ t j, j < 528 →
      (erases ∧ t / spb = s / spb → (r.command p v).arrayByte t j = r.erased) ∧
      (programs ∧ t = s → (r.command p v).arrayByte t j = r.arrayByte t j &&& byteAt r.pb j) ∧
      (¬(erases ∧ t / spb = s / spb) ∧ ¬(programs ∧ t = s) → (r.command p v).arrayByte t j = r.arrayByte t j)

/-- R74 for one sector, under the reference device model and its premises (R80): a WRSEC to the first sector of an erase
block and then a RDSEC of it both end OK, and SB holds again the 528 bytes written. -/
def Obligations.RoundTripOfFirstSector : Prop :=
  ∀ (lba : Word) (s : State) (r : Rdm) (g : FlashGeometry),
    s.halted = false → s.initialized = true → s.geometry = some g → lba.toNat % g.pagesCount = 0 →
    sbWf s.sb = true → sbFull s.sb = true → s.TransportCompletes → s.params.admissible = true →
    distinctRegisters s.params = true → distinctCommands s.params = true →
    s.device = .rdm r → r.wf s.params = true → r.quiet = true → r.erased = 0xFF →
    ∃ t, exec (.wrsec lba) s = .next t ∧ t.result = some 0x00 ∧
      ∀ m : Memory, sbWf m = true →
        ∃ u, exec (.rdsec lba) { t with sb := m } = .next u ∧ u.result = some 0x00 ∧
          ∀ j, j < 528 → u.sb.read j = s.sb.read j
end

