-- ==== Sys2Proof/Laws/Memory.lean ====
section
/-! SUPPORT. The laws of the sparse byte memories: every operation keeps the canonical form, a read after a write to
the same place gives the value written, and a write leaves every other place alone. -/

namespace Sys2Proof.Machine

/-- The canonical form as a chain: the first address is below every later one. -/
theorem Memory.wf_cons {c : Host.Cell} {m : Memory} :
    Memory.wf (c :: m) = true ↔ (∀ d, m.head? = some d → c.1 < d.1) ∧ Memory.wf m = true := by
  cases m with
  | nil => simp [Memory.wf]
  | cons d rest => simp [Memory.wf]

/-- The form written as pairwise order. -/
theorem Memory.wf_iff_pairwise (m : Memory) : Memory.wf m = true ↔ m.Pairwise (fun c d => c.1 < d.1) := by
  induction m with
  | nil => simp [Memory.wf]
  | cons c rest ih =>
    rw [Memory.wf_cons, ih, List.pairwise_cons]
    constructor
    · rintro ⟨hc, hp⟩
      refine ⟨?_, hp⟩
      cases rest with
      | nil => simp
      | cons d rest =>
        have hcd := hc d rfl
        intro e he
        rcases List.mem_cons.mp he with rfl | he
        · exact hcd
        · exact lt_trans hcd ((List.pairwise_cons.mp hp).1 e he)
    · rintro ⟨hc, hp⟩
      exact ⟨fun d hd => hc d (List.mem_of_mem_head? hd), hp⟩

/-- The cells a write lists. -/
theorem Memory.mem_write {m : Memory} {a : Nat} {b : Byte} {c : Host.Cell} (h : c ∈ m.write a b) :
    c = (a, b) ∨ c ∈ m := by
  induction m with
  | nil => simpa [Memory.write] using h
  | cons d rest ih =>
    simp only [Memory.write] at h
    split at h
    · simpa using h
    · split at h
      · rcases List.mem_cons.mp h with h | h
        · exact .inl h
        · exact .inr (List.mem_cons_of_mem _ h)
      · rcases List.mem_cons.mp h with h | h
        · exact .inr (h ▸ List.mem_cons_self)
        · rcases ih h with h | h
          · exact .inl h
          · exact .inr (List.mem_cons_of_mem _ h)

/-- A write keeps the canonical form. -/
theorem Memory.wf_write {m : Memory} (h : Memory.wf m = true) (a : Nat) (b : Byte) :
    Memory.wf (m.write a b) = true := by
  rw [Memory.wf_iff_pairwise] at h ⊢
  induction m with
  | nil => simp [Memory.write]
  | cons d rest ih =>
    obtain ⟨hd, hr⟩ := List.pairwise_cons.mp h
    simp only [Memory.write]
    split
    · rename_i hlt
      refine List.pairwise_cons.mpr ⟨?_, h⟩
      intro e he
      rcases List.mem_cons.mp he with rfl | he
      · exact hlt
      · exact lt_trans hlt (hd e he)
    · split
      · rename_i heq
        exact List.pairwise_cons.mpr ⟨fun e he => heq ▸ hd e he, hr⟩
      · refine List.pairwise_cons.mpr ⟨?_, ih hr⟩
        intro e he
        rcases Memory.mem_write he with rfl | he
        · show d.1 < a
          omega
        · exact hd e he

/-- Unlisting addresses keeps the canonical form. -/
theorem Memory.wf_remove {m : Memory} (h : Memory.wf m = true) (p : Nat → Bool) : Memory.wf (m.remove p) = true := by
  rw [Memory.wf_iff_pairwise] at h ⊢
  exact h.filter _

/-- Writing bytes keeps the canonical form. -/
theorem Memory.wf_writeBytes {m : Memory} (h : Memory.wf m = true) (a : Nat) (bs : List Byte) :
    Memory.wf (m.writeBytes a bs) = true := by
  induction bs generalizing m a with
  | nil => exact h
  | cons b rest ih => exact ih (Memory.wf_write h a b) (a + 1)

/-- A default-aware write keeps the canonical form. -/
theorem Memory.wf_writeOr {m : Memory} (h : Memory.wf m = true) (dflt : Byte) (a : Nat) (b : Byte) :
    Memory.wf (Memory.writeOr dflt m a b) = true := by
  unfold Memory.writeOr
  split
  · exact Memory.wf_remove h _
  · exact Memory.wf_write h a b

/-- A default-aware write lists no default cell. -/
theorem noDefaultCells_writeOr {dflt : Byte} {m : Memory} (h : noDefaultCells dflt m = true) (a : Nat) (b : Byte) :
    noDefaultCells dflt (Memory.writeOr dflt m a b) = true := by
  simp only [noDefaultCells, List.all_eq_true] at h ⊢
  unfold Memory.writeOr
  split
  · exact fun c hc => h c (List.mem_of_mem_filter hc)
  · intro c hc
    rcases Memory.mem_write hc with rfl | hc
    · simpa using ‹¬b = dflt›
    · exact h c hc

/-- Default-aware writes of bytes keep both parts of the form. -/
theorem Memory.form_writeBytesOr {dflt : Byte} {m : Memory} (h : Memory.wf m = true) (hn : noDefaultCells dflt m = true)
    (a : Nat) (bs : List Byte) :
    Memory.wf (Memory.writeBytesOr dflt m a bs) = true ∧
      noDefaultCells dflt (Memory.writeBytesOr dflt m a bs) = true := by
  induction bs generalizing m a with
  | nil => exact ⟨h, hn⟩
  | cons b rest ih => exact ih (Memory.wf_writeOr h dflt a b) (noDefaultCells_writeOr hn a b) (a + 1)

/-- Unlisting addresses lists no new default cell. -/
theorem noDefaultCells_remove {dflt : Byte} {m : Memory} (h : noDefaultCells dflt m = true) (p : Nat → Bool) :
    noDefaultCells dflt (m.remove p) = true := by
  simp only [noDefaultCells, List.all_eq_true] at h ⊢
  exact fun c hc => h c (List.mem_of_mem_filter hc)

/-- A read after a write: the value written at that place, the old value elsewhere. -/
theorem Memory.read_write {m : Memory} (a : Nat) (b : Byte) (x : Nat) (h : Memory.wf m = true) :
    (m.write a b).read x = if x = a then some b else m.read x := by
  rw [Memory.wf_iff_pairwise] at h
  induction m with
  | nil =>
    by_cases hx : x = a
    · simp [Memory.write, Memory.read, hx]
    · simp [Memory.write, Memory.read, hx, Ne.symm hx]
  | cons d rest ih =>
    obtain ⟨hd, hr⟩ := List.pairwise_cons.mp h
    simp only [Memory.write]
    by_cases h1 : a < d.1
    · simp only [h1, if_true]
      by_cases hx : x = a
      · simp [Memory.read, hx]
      · simp [Memory.read, hx, Ne.symm hx]
    · by_cases h2 : a = d.1
      · simp only [h2, lt_irrefl, if_false, if_true]
        by_cases hx : x = d.1
        · simp [Memory.read, hx]
        · simp [Memory.read, hx, Ne.symm hx]
      · simp only [h1, h2, if_false]
        by_cases hx : d.1 = x
        · have : x ≠ a := fun e => h2 (e ▸ hx.symm)
          simp [Memory.read, hx, this]
        · simp [Memory.read, hx, ih hr]

/-- A read after writing bytes: the byte written inside the written range, the old value outside. -/
theorem Memory.read_writeBytes {m : Memory} (h : Memory.wf m = true) (a : Nat) (bs : List Byte) (x : Nat) :
    (m.writeBytes a bs).read x =
      if a ≤ x ∧ x < a + bs.length then bs[x - a]? else m.read x := by
  induction bs generalizing m a with
  | nil =>
    simp [Memory.writeBytes]
  | cons b rest ih =>
    simp only [Memory.writeBytes, List.length_cons]
    rw [ih (Memory.wf_write h a b) (a + 1), Memory.read_write a b x h]
    by_cases h1 : x = a
    · subst h1
      simp
    · by_cases h2 : a + 1 ≤ x ∧ x < a + 1 + rest.length
      · have h3 : a ≤ x ∧ x < a + (rest.length + 1) := by omega
        have h4 : x - a = (x - (a + 1)) + 1 := by omega
        rw [if_pos h2, if_pos h3, h4, List.getElem?_cons_succ]
      · have h3 : ¬(a ≤ x ∧ x < a + (rest.length + 1)) := by omega
        rw [if_neg h2, if_neg h3, if_neg h1]

/-- A read after addresses were unlisted. -/
theorem Memory.read_remove (m : Memory) (p : Nat → Bool) (x : Nat) :
    (m.remove p).read x = if p x then none else m.read x := by
  induction m with
  | nil => simp [Memory.remove, Memory.read]
  | cons c rest ih =>
    simp only [Memory.remove, List.filter] at ih ⊢
    by_cases h : p c.1
    · simp only [h, Bool.not_true]
      rw [ih]
      by_cases hx : c.1 = x
      · subst hx
        simp [h]
      · simp [Memory.read, hx]
    · simp only [h, Bool.not_false, Memory.read]
      by_cases hx : c.1 = x
      · subst hx
        simp [h]
      · simp only [hx, if_false, ih]

/-- A default-aware read after a default-aware write. -/
theorem Memory.readOr_writeOr (dflt : Byte) {m : Memory} (h : Memory.wf m = true) (a : Nat) (b : Byte) (x : Nat) :
    (Memory.writeOr dflt m a b).readOr dflt x = if x = a then b else m.readOr dflt x := by
  unfold Memory.readOr Memory.writeOr
  by_cases hb : b = dflt
  · rw [if_pos hb, Memory.read_remove]
    by_cases hx : x = a
    · simp [hx, hb]
    · simp [hx]
  · rw [if_neg hb, Memory.read_write a b x h]
    by_cases hx : x = a <;> simp [hx]

/-- A default-aware read after default-aware writes of bytes. -/
theorem Memory.readOr_writeBytesOr (dflt : Byte) (bs : List Byte) {m : Memory} (h : Memory.wf m = true) (a x : Nat) :
    (Memory.writeBytesOr dflt m a bs).readOr dflt x =
      if a ≤ x ∧ x < a + bs.length then bs.getD (x - a) 0 else m.readOr dflt x := by
  induction bs generalizing m a with
  | nil => simp [Memory.writeBytesOr]
  | cons b rest ih =>
    rw [Memory.writeBytesOr, ih (Memory.wf_writeOr h dflt a b), Memory.readOr_writeOr dflt h]
    by_cases h1 : x = a
    · subst h1
      simp
    · by_cases h2 : a + 1 ≤ x ∧ x < a + 1 + rest.length
      · rw [if_pos h2, if_pos (by simp; omega), show x - a = (x - (a + 1)) + 1 by omega]
        rfl
      · rw [if_neg h2, if_neg h1, if_neg (by simp; omega)]

/-- SB keeps its form when bytes inside 0 to 527 are written. -/
theorem sbWf_writeBytes {m : Memory} (h : sbWf m = true) (a : Nat) (bs : List Byte)
    (hb : a + bs.length ≤ sectorBytes) : sbWf (m.writeBytes a bs) = true := by
  simp only [sbWf, Bool.and_eq_true] at h ⊢
  refine ⟨Memory.wf_writeBytes h.1 a bs, ?_⟩
  have key : ∀ (bs : List Byte) (m : Memory) (a : Nat), (∀ c ∈ m, c.1 < sectorBytes) →
      a + bs.length ≤ sectorBytes → ∀ c ∈ m.writeBytes a bs, c.1 < sectorBytes := by
    intro bs
    induction bs with
    | nil => intro m a hm _; exact hm
    | cons b rest ih =>
      intro m a hm hlen
      simp only [List.length_cons] at hlen
      refine ih (m.write a b) (a + 1) ?_ (by omega)
      intro c hc
      rcases Memory.mem_write hc with rfl | hc
      · show a < sectorBytes
        omega
      · exact hm c hc
  simpa using key bs m a (by simpa using h.2) hb

/-- SB keeps its form when a word is written (R49). -/
theorem sbWf_putWord {m : Memory} (h : sbWf m = true) {i : Nat} (hi : i < sectorWords) (w : Word) :
    sbWf (sbPutWord m i w) = true :=
  sbWf_writeBytes h _ _ (by simp [leBytes, sectorWords, sectorBytes] at *; omega)

/-- A read of SB after a word was written: byte `k` of the word at `4i + k`, the old value elsewhere (R49). -/
theorem read_sbPutWord {m : Memory} (h : Memory.wf m = true) (i : Nat) (w : Word) (x : Nat) :
    (sbPutWord m i w).read x = if 4 * i ≤ x ∧ x < 4 * i + 4 then (leBytes w)[x - 4 * i]? else m.read x := by
  unfold sbPutWord
  rw [Memory.read_writeBytes h]
  rfl

/-- A memory that lists every address below `n`: what it holds. -/
theorem Memory.read_map_range (f : Nat → Byte) (n a : Nat) :
    Memory.read ((List.range n).map fun j => (j, f j)) a = if a < n then some (f a) else none := by
  induction n generalizing f a with
  | zero => rfl
  | succ n ih =>
    rw [List.range_succ_eq_map, List.map_cons, List.map_map, Memory.read]
    cases a with
    | zero => simp
    | succ a =>
      have key : ∀ l : List Nat, Memory.read (l.map fun j => (j + 1, f (j + 1))) (a + 1) =
          Memory.read (l.map fun j => (j, f (j + 1))) a := by
        intro l
        induction l with
        | nil => rfl
        | cons x rest ih => simp only [List.map_cons, Memory.read, Nat.add_right_cancel_iff, ih]
      simpa [Function.comp_def] using (key (List.range n)).trans (ih (fun j => f (j + 1)) a)

/-- A buffer that lists all 528 bytes has the form of SB. -/
theorem sbWf_map_range (f : Nat → Byte) : sbWf ((List.range sectorBytes).map fun j => (j, f j)) = true := by
  simp only [sbWf, Bool.and_eq_true]
  constructor
  · rw [Memory.wf_iff_pairwise, List.pairwise_map]
    exact List.pairwise_lt_range
  · simp

/-- A buffer that lists all 528 bytes is full. -/
theorem sbFull_map_range (f : Nat → Byte) : sbFull ((List.range sectorBytes).map fun j => (j, f j)) = true := by
  simp only [sbFull, List.all_eq_true, List.mem_range]
  intro a ha
  rw [Memory.read_map_range, if_pos ha]
  rfl

/-- The free contents of SB after a transport failure have the form of SB (U13). -/
theorem sbWf_freeSB (k : Nat) : sbWf (freeSB k) = true := sbWf_map_range fun j => Config.freeByte (k + j)

end Sys2Proof.Machine
end

