-- ==== Sys2Proof/Laws/Device.lean ====
section
/-! SUPPORT. The target device: a reply has the length of its frame, and the reference device keeps its form. -/

namespace Sys2Proof.Machine

/-- The oracle's reply has the length asked for (R13). -/
theorem oracleReply_length (n : Nat) (pending : List Byte) (k : Nat) : (oracleReply n pending k).bytes.length = n := by
  induction n generalizing pending k with
  | zero => rfl
  | succ n ih => cases pending <;> simp [oracleReply, ih]

/-- A write frame or a read frame has five or six bytes (R95). -/
theorem readFrame_length (t : Byte) (a : RegAddr) : (readFrame t a).length = 6 := rfl

theorem writeFrame_length (a : RegAddr) (v : Word) : (writeFrame a v).length = 5 := rfl

/-- What a frame decodes to fixes its length (R95). -/
theorem decodeFrame_read {tx : List Byte} {a : RegAddr} (h : decodeFrame tx = .ok (.spiRd a)) : tx.length = 6 := by
  unfold decodeFrame at h
  split at h
  · split at h
    · assumption
    · cases h
  · split at h <;> cases h
  · cases h

theorem decodeFrame_write {tx : List Byte} {a : RegAddr} {v : Word} (h : decodeFrame tx = .ok (.spiWr a v)) :
    tx.length = 5 := by
  unfold decodeFrame at h
  split at h
  · split at h <;> cases h
  · split at h
    · assumption
    · cases h
  · cases h

/-- The device's reply has the length of the frame (R13, R111). -/
theorem respond_length (p : Params) (tx : List Byte) (d : Device) (k : Nat) :
    (d.respond p tx k).bytes.length = tx.length := by
  cases d with
  | oracle pending => exact oracleReply_length _ _ _
  | rdm r =>
    simp only [Device.respond, Rdm.transact]
    split
    · split
      · rename_i h
        rw [decodeFrame_read h]
        rfl
      · rename_i h
        rw [decodeFrame_write h]
        rfl
      · simp
    · simp

/-- The five parts of the reference device's form. -/
theorem Rdm.wf_iff (p : Params) (r : Rdm) : r.wf p = true ↔
    r.reg.length = 64 ∧ r.pb.length = sectorBytes ∧ Memory.wf r.array = true ∧ noDefaultCells r.erased r.array = true ∧
      r.cfg0 &&& p.weMask = 0 := by
  simp [Rdm.wf, and_assoc]

theorem patchBytes_length {buf bs : List Byte} {o : Nat} (h : o + bs.length ≤ buf.length) :
    (patchBytes buf o bs).length = buf.length := by
  simp [patchBytes]
  omega

theorem Rdm.wf_atReset (p : Params) (cfg0 glitch : Word) (busy : Nat) (erased : Byte) :
    (Rdm.atReset p cfg0 glitch busy erased).wf p = true := by
  rw [Rdm.wf_iff]
  refine ⟨by simp [Rdm.atReset], by simp [Rdm.atReset], rfl, rfl, ?_⟩
  simp [Rdm.atReset, BitVec.and_assoc]

/-- The form does not depend on the fields that hold no registers, no buffer and no array. -/
theorem Rdm.wf_congr {p : Params} {r r' : Rdm} (h : r.wf p = true) (h1 : r'.reg = r.reg) (h2 : r'.pb.length = r.pb.length)
    (h3 : r'.array = r.array) (h4 : r'.erased = r.erased) (h5 : r'.cfg0 = r.cfg0) : r'.wf p = true := by
  rw [Rdm.wf_iff] at h ⊢
  rw [h1, h2, h3, h4, h5]
  exact h

theorem Rdm.wf_setSector {p : Params} {r : Rdm} (h : r.wf p = true) (t : Nat) (bs : List Byte) : (r.setSector t bs).wf p = true := by
  rw [Rdm.wf_iff] at h
  obtain ⟨h1, h2⟩ := Memory.form_writeBytesOr h.2.2.1 h.2.2.2.1 (t * sectorBytes) bs
  exact (Rdm.wf_iff p _).mpr ⟨h.1, h.2.1, h1, h2, h.2.2.2.2⟩

theorem Rdm.wf_eraseBlock {p : Params} {r : Rdm} (h : r.wf p = true) (spb t : Nat) : (r.eraseBlock spb t).wf p = true := by
  rw [Rdm.wf_iff] at h ⊢
  exact ⟨h.1, h.2.1, Memory.wf_remove h.2.2.1 fun a => a / sectorBytes / spb == t / spb,
    noDefaultCells_remove h.2.2.2.1 fun a => a / sectorBytes / spb == t / spb, h.2.2.2.2⟩

theorem Rdm.wf_program {p : Params} {r : Rdm} (h : r.wf p = true) (t : Nat) : (r.program t).wf p = true := by
  unfold Rdm.program
  exact Rdm.wf_setSector h t _

theorem Rdm.sector_length (r : Rdm) (t : Nat) : (r.sector t).length = sectorBytes := by
  simp [Rdm.sector]

theorem Rdm.wf_nullCommand {p : Params} {r : Rdm} (h : r.wf p = true) : r.nullCommand.wf p = true := by
  unfold Rdm.nullCommand
  split
  · exact Rdm.wf_congr h rfl rfl rfl rfl rfl
  · exact h

theorem Rdm.wf_writePulse {p : Params} {r : Rdm} (h : r.wf p = true) : r.writePulse.wf p = true := by
  have hpb := ((Rdm.wf_iff p r).mp h).2.1
  unfold Rdm.writePulse
  by_cases hle : r.ptr + 4 ≤ sectorBytes
  · have hlen : (patchBytes r.pb r.ptr (leBytes r.data)).length = r.pb.length :=
      patchBytes_length (by rw [hpb]; exact hle)
    simp only [if_pos hle]
    exact Rdm.wf_congr h rfl hlen rfl rfl rfl
  · simp only [if_neg hle]
    exact Rdm.wf_congr h rfl rfl rfl rfl rfl

/-- Every command keeps the device's form (R79). -/
theorem Rdm.wf_command {p : Params} {r : Rdm} (h : r.wf p = true) (v : Word) : (r.command p v).wf p = true := by
  have hpb := ((Rdm.wf_iff p r).mp h).2.1
  have hdone : ∀ r' : Rdm, r'.wf p = true → (r'.remember v).wf p = true :=
    fun r' h' => Rdm.wf_congr h' rfl rfl rfl rfl rfl
  have hbusy : ∀ (r' : Rdm) (n : Nat), r'.wf p = true → ({ r' with busyLeft := n } : Rdm).wf p = true :=
    fun r' n h' => Rdm.wf_congr h' rfl rfl rfl rfl rfl
  unfold Rdm.command
  apply hdone
  split
  · exact hbusy _ _ (Rdm.wf_eraseBlock h (r.sectorsPerBlock p) (r.addressedSector p))
  · split
    · exact hbusy _ _ (Rdm.wf_program h (r.addressedSector p))
    · split
      · refine Rdm.wf_congr h rfl ?_ rfl rfl rfl
        rw [hpb, r.sector_length (r.addressedSector p)]
      · split
        · exact Rdm.wf_nullCommand h
        · split
          · exact Rdm.wf_writePulse h
          · exact h

theorem Rdm.wf_writeReg {p : Params} {r : Rdm} (h : r.wf p = true) (a : RegAddr) (v : Word) :
    (r.writeReg p a v).wf p = true := by
  have hset : ∀ w, (r.setReg a w).wf p = true := by
    intro w
    rw [Rdm.wf_iff] at h ⊢
    simpa [Rdm.setReg] using h
  unfold Rdm.writeReg
  split
  · exact hset _
  · split
    · exact Rdm.wf_command h v
    · split
      · split
        · have := hset v
          rw [Rdm.wf_iff] at this ⊢
          exact this
        · exact hset v
      · split
        · rw [Rdm.wf_iff] at h ⊢
          exact h
        · exact hset v

theorem Rdm.wf_readReg {p : Params} {r : Rdm} (h : r.wf p = true) (a : RegAddr) : (r.readReg p a).2.wf p = true := by
  have hsee : ∀ r' : Rdm, r'.wf p = true → (r'.seeConfigRead p a).wf p = true := by
    intro r' h'
    unfold Rdm.seeConfigRead
    split
    · rw [Rdm.wf_iff] at h' ⊢
      exact h'
    · exact h'
  have hpoll : r.pollBusy.2.wf p = true := by
    unfold Rdm.pollBusy
    split
    · rw [Rdm.wf_iff] at h ⊢
      exact h
    · split
      · rw [Rdm.wf_iff] at h ⊢
        exact h
      · exact h
  unfold Rdm.readReg
  split
  · exact hsee r h
  · split
    · exact hsee _ hpoll
    · split <;> exact hsee r h

/-- Whatever frame it answers, the device keeps its form. -/
theorem wf_respond {p : Params} {d : Device} (h : d.wf p = true) (tx : List Byte) (k : Nat) :
    (d.respond p tx k).device.wf p = true := by
  cases d with
  | oracle pending =>
    have key : ∀ n pending k, (oracleReply n pending k).device.wf p = true := by
      intro n
      induction n with
      | zero => intro _ _; rfl
      | succ n ih => intro pending k; cases pending <;> exact ih _ _
    exact key _ _ _
  | rdm r =>
    simp only [Device.respond, Device.wf, Rdm.transact] at *
    split
    · split
      · exact Rdm.wf_readReg h _
      · exact Rdm.wf_writeReg h _ _
      · exact h
    · exact h

/-- The oracle's reply while it has pending bytes enough, all the same. -/
theorem oracleReply_replicate (n j : Nat) (b : Byte) (k : Nat) :
    oracleReply n (List.replicate (n + j) b) k = ⟨List.replicate n b, .oracle (List.replicate j b), k⟩ := by
  induction n with
  | zero => simp [oracleReply]
  | succ n ih =>
    rw [Nat.add_right_comm, List.replicate_succ, oracleReply, ih]
    rfl

/-- An oracle with zero bytes pending, six for each transfer, shows ready at every status read. -/
theorem readyFor_zeros (p : Params) (n m k : Nat) (h : 6 * n ≤ m) :
    Device.readyFor p n (.oracle (List.replicate m 0)) k := by
  induction n generalizing m with
  | zero => trivial
  | succ n ih =>
    intro tx ht
    obtain ⟨j, rfl⟩ := Nat.exists_eq_add_of_le (show tx.length ≤ m by omega)
    simp only [Device.respond, oracleReply_replicate]
    refine ⟨?_, ih j (by omega)⟩
    rintro rfl
    rw [readFrame_length, show replyValue (List.replicate 6 0) = 0 from by decide]
    exact BitVec.zero_and

/-- An oracle with 0xFF bytes pending, six for each transfer, shows busy at every status read. -/
theorem busyFor_ones (p : Params) (hp : p.busyMask ≠ 0) (n m k : Nat) (h : 6 * n ≤ m) :
    Device.busyFor p n (.oracle (List.replicate m 0xFF)) k := by
  induction n generalizing m with
  | zero => trivial
  | succ n ih =>
    intro tx ht
    obtain ⟨j, rfl⟩ := Nat.exists_eq_add_of_le (show tx.length ≤ m by omega)
    simp only [Device.respond, oracleReply_replicate]
    refine ⟨?_, ih j (by omega)⟩
    rintro rfl
    rw [readFrame_length, show replyValue (List.replicate 6 0xFF) = BitVec.allOnes 32 from by decide,
      BitVec.allOnes_and]
    exact hp

theorem wf_lost {p : Params} {d : Device} (h : d.wf p = true) : d.lost.wf p = true := by
  cases d with
  | oracle p => exact h
  | rdm r => rfl

theorem wf_closed {p : Params} {d : Device} (h : d.wf p = true) (free : Bool) : (d.closed free).wf p = true := by
  cases d with
  | oracle _ => rfl
  | rdm r =>
    simp only [Device.closed, Device.wf] at *
    rw [Rdm.wf_iff] at h ⊢
    exact h

theorem wf_entered {p : Params} {d : Device} (h : d.wf p = true) : d.entered.wf p = true := by
  cases d with
  | oracle _ => rfl
  | rdm r =>
    simp only [Device.entered, Device.wf] at *
    rw [Rdm.wf_iff] at h ⊢
    exact h

theorem wf_left {p : Params} {d : Device} (h : d.wf p = true) : d.left.wf p = true := by
  cases d with
  | oracle _ => rfl
  | rdm r =>
    simp only [Device.left, Device.wf] at *
    rw [Rdm.wf_iff] at h ⊢
    exact h

end Sys2Proof.Machine
end

