-- ==== Sys2Proof/Laws/Fields.lean ====
section
/-! SUPPORT. The fields of an encoded request word (R86), from two laws of slices of a concatenation. -/

namespace Sys2Proof

/-- The low slice of a concatenation is its second part. -/
theorem extractLsb'_append_low {a b : Nat} (x : BitVec a) (y : BitVec b) : (x ++ y).extractLsb' 0 b = y := by
  apply BitVec.eq_of_getLsbD_eq
  intro i hi
  simp [BitVec.getLsbD_append, hi]

/-- A slice above the second part of a concatenation is a slice of its first part. -/
theorem extractLsb'_append_high {a b : Nat} (x : BitVec a) (y : BitVec b) (t n : Nat) :
    (x ++ y).extractLsb' (b + t) n = x.extractLsb' t n := by
  apply BitVec.eq_of_getLsbD_eq
  intro i hi
  simp [BitVec.getLsbD_append, hi, show ¬(b + t + i < b) by omega, show b + t + i - b = t + i by omega]

/-- Two adjacent slices side by side are one slice. -/
theorem extractLsb'_glue {w a b : Nat} (x : BitVec w) (s t : Nat) (h : s = t + b) :
    x.extractLsb' s a ++ x.extractLsb' t b = x.extractLsb' t (a + b) := by
  subst h
  apply BitVec.eq_of_getLsbD_eq
  intro i hi
  simp only [BitVec.getLsbD_append, BitVec.getLsbD_extractLsb']
  by_cases h : i < b
  · simp [h]
    omega
  · simp [h, show t + b + (i - b) = t + i by omega, show i - b < a by omega, show i < a + b by omega]

theorem opField_encodeRequest (i : Instr) : opField (encodeRequest i) = i.opCode := extractLsb'_append_low _ _

theorem regField_encodeRequest (i : Instr) : regField (encodeRequest i) = i.regOperand :=
  (extractLsb'_append_high _ i.opCode 0 6).trans (extractLsb'_append_low _ _)

theorem mbzField_encodeRequest (i : Instr) : mbzField (encodeRequest i) = 0 :=
  (extractLsb'_append_high _ i.opCode 6 2).trans
    ((extractLsb'_append_high _ i.regOperand 0 2).trans (extractLsb'_append_low _ _))

theorem argField_encodeRequest (i : Instr) : argField (encodeRequest i) = i.argOperand :=
  (extractLsb'_append_high _ i.opCode 8 32).trans
    ((extractLsb'_append_high _ i.regOperand 2 32).trans
      ((extractLsb'_append_high _ (0 : BitVec 2) 0 32).trans BitVec.extractLsb'_eq_self))

/-- A word is the concatenation of its four fields (R86). -/
theorem fields_of_word (q : RequestWord) : argField q ++ mbzField q ++ regField q ++ opField q = q := by
  unfold argField mbzField regField opField
  rw [extractLsb'_glue q 16 14 rfl, extractLsb'_glue q 14 8 rfl, extractLsb'_glue q 8 0 rfl]
  exact BitVec.extractLsb'_eq_self

/-- A word read back from its six bytes (R86). -/
theorem requestOfBytes_requestBytes (q : RequestWord) :
    requestOfBytes (q.extractLsb' 0 8) (q.extractLsb' 8 8) (q.extractLsb' 16 8) (q.extractLsb' 24 8)
      (q.extractLsb' 32 8) (q.extractLsb' 40 8) = q := by
  unfold requestOfBytes
  rw [extractLsb'_glue q 40 32 rfl, extractLsb'_glue q 32 24 rfl, extractLsb'_glue q 24 16 rfl,
    extractLsb'_glue q 16 8 rfl, extractLsb'_glue q 8 0 rfl]
  exact BitVec.extractLsb'_eq_self

end Sys2Proof
end

