-- ==== Sys2Proof/Laws/State.lean ====
section
/-! SUPPORT. What each named update of the state does to each field. -/

namespace Sys2Proof.Machine

/-! ## An event noted in the trace. -/

@[simp] theorem State.note_linkOpen (s : State) (e : BusEvent) : (s.note e).linkOpen = s.linkOpen := rfl
@[simp] theorem State.note_pins (s : State) (e : BusEvent) : (s.note e).pins = s.pins := rfl
@[simp] theorem State.note_initialized (s : State) (e : BusEvent) : (s.note e).initialized = s.initialized := rfl
@[simp] theorem State.note_geometry (s : State) (e : BusEvent) : (s.note e).geometry = s.geometry := rfl
@[simp] theorem State.note_seq (s : State) (e : BusEvent) : (s.note e).seq = s.seq := rfl
@[simp] theorem State.note_stepIdx (s : State) (e : BusEvent) : (s.note e).stepIdx = s.stepIdx + 1 := rfl
@[simp] theorem State.note_sb (s : State) (e : BusEvent) : (s.note e).sb = s.sb := rfl
@[simp] theorem State.note_result (s : State) (e : BusEvent) : (s.note e).result = s.result := rfl
@[simp] theorem State.note_value (s : State) (e : BusEvent) : (s.note e).value = s.value := rfl
@[simp] theorem State.note_refused (s : State) (e : BusEvent) : (s.note e).refused = s.refused := rfl
@[simp] theorem State.note_halted (s : State) (e : BusEvent) : (s.note e).halted = s.halted := rfl
@[simp] theorem State.note_latches (s : State) (e : BusEvent) : (s.note e).latches = s.latches := rfl
@[simp] theorem State.note_params (s : State) (e : BusEvent) : (s.note e).params = s.params := rfl
@[simp] theorem State.note_device (s : State) (e : BusEvent) : (s.note e).device = s.device := rfl
@[simp] theorem State.note_answers (s : State) (e : BusEvent) : (s.note e).answers = s.answers := rfl
@[simp] theorem State.note_draws (s : State) (e : BusEvent) : (s.note e).draws = s.draws := rfl
@[simp] theorem State.note_inputs (s : State) (e : BusEvent) : (s.note e).inputs = s.inputs := rfl
@[simp] theorem State.note_trace (s : State) (e : BusEvent) : (s.note e).trace = s.trace ++ [e] := rfl
@[simp] theorem State.note_refusal (s : State) (e : BusEvent) : (s.note e).refusal = s.refusal := rfl
@[simp] theorem State.note_seen (s : State) (e : BusEvent) : (s.note e).seen = s.seen := rfl

/-! ## A completed event. -/

@[simp] theorem State.completeEvent_linkOpen (s : State) (e : BusEvent) :
    (s.completeEvent e).linkOpen = s.linkOpen := rfl
@[simp] theorem State.completeEvent_pins (s : State) (e : BusEvent) :
    (s.completeEvent e).pins = drivePins e s.pins := rfl
@[simp] theorem State.completeEvent_initialized (s : State) (e : BusEvent) :
    (s.completeEvent e).initialized = s.initialized := rfl
@[simp] theorem State.completeEvent_geometry (s : State) (e : BusEvent) :
    (s.completeEvent e).geometry = s.geometry := rfl
@[simp] theorem State.completeEvent_seq (s : State) (e : BusEvent) : (s.completeEvent e).seq = s.seq := rfl
@[simp] theorem State.completeEvent_stepIdx (s : State) (e : BusEvent) :
    (s.completeEvent e).stepIdx = s.stepIdx + 1 := rfl
@[simp] theorem State.completeEvent_sb (s : State) (e : BusEvent) : (s.completeEvent e).sb = s.sb := rfl
@[simp] theorem State.completeEvent_result (s : State) (e : BusEvent) : (s.completeEvent e).result = s.result := rfl
@[simp] theorem State.completeEvent_value (s : State) (e : BusEvent) : (s.completeEvent e).value = s.value := rfl
@[simp] theorem State.completeEvent_refused (s : State) (e : BusEvent) :
    (s.completeEvent e).refused = s.refused := rfl
@[simp] theorem State.completeEvent_halted (s : State) (e : BusEvent) : (s.completeEvent e).halted = s.halted := rfl
@[simp] theorem State.completeEvent_latches (s : State) (e : BusEvent) :
    (s.completeEvent e).latches = s.latches := rfl
@[simp] theorem State.completeEvent_params (s : State) (e : BusEvent) : (s.completeEvent e).params = s.params := rfl
@[simp] theorem State.completeEvent_device (s : State) (e : BusEvent) : (s.completeEvent e).device = s.device := rfl
@[simp] theorem State.completeEvent_answers (s : State) (e : BusEvent) :
    (s.completeEvent e).answers = s.answers := rfl
@[simp] theorem State.completeEvent_draws (s : State) (e : BusEvent) : (s.completeEvent e).draws = s.draws := rfl
@[simp] theorem State.completeEvent_inputs (s : State) (e : BusEvent) : (s.completeEvent e).inputs = s.inputs := rfl
@[simp] theorem State.completeEvent_trace (s : State) (e : BusEvent) :
    (s.completeEvent e).trace = s.trace ++ [e] := rfl
@[simp] theorem State.completeEvent_refusal (s : State) (e : BusEvent) :
    (s.completeEvent e).refusal = s.refusal := rfl
@[simp] theorem State.completeEvent_seen (s : State) (e : BusEvent) : (s.completeEvent e).seen = s.seen := rfl

/-! ## A failed event. -/

@[simp] theorem State.failEvent_linkOpen (s : State) (e : BusEvent) : (s.failEvent e).linkOpen = s.linkOpen := rfl
@[simp] theorem State.failEvent_pins (s : State) (e : BusEvent) :
    (s.failEvent e).pins = unsurePins s.linkOpen e s.draws s.pins := rfl
@[simp] theorem State.failEvent_initialized (s : State) (e : BusEvent) :
    (s.failEvent e).initialized = s.initialized := rfl
@[simp] theorem State.failEvent_geometry (s : State) (e : BusEvent) : (s.failEvent e).geometry = s.geometry := rfl
@[simp] theorem State.failEvent_seq (s : State) (e : BusEvent) : (s.failEvent e).seq = s.seq := rfl
@[simp] theorem State.failEvent_stepIdx (s : State) (e : BusEvent) : (s.failEvent e).stepIdx = s.stepIdx + 1 := rfl
@[simp] theorem State.failEvent_sb (s : State) (e : BusEvent) : (s.failEvent e).sb = s.sb := rfl
@[simp] theorem State.failEvent_result (s : State) (e : BusEvent) : (s.failEvent e).result = s.result := rfl
@[simp] theorem State.failEvent_value (s : State) (e : BusEvent) : (s.failEvent e).value = s.value := rfl
@[simp] theorem State.failEvent_refused (s : State) (e : BusEvent) : (s.failEvent e).refused = s.refused := rfl
@[simp] theorem State.failEvent_halted (s : State) (e : BusEvent) : (s.failEvent e).halted = s.halted := rfl
@[simp] theorem State.failEvent_latches (s : State) (e : BusEvent) : (s.failEvent e).latches = s.latches := rfl
@[simp] theorem State.failEvent_params (s : State) (e : BusEvent) : (s.failEvent e).params = s.params := rfl
@[simp] theorem State.failEvent_device (s : State) (e : BusEvent) : (s.failEvent e).device = s.device.lost := rfl
@[simp] theorem State.failEvent_answers (s : State) (e : BusEvent) : (s.failEvent e).answers = s.answers := rfl
@[simp] theorem State.failEvent_draws (s : State) (e : BusEvent) : (s.failEvent e).draws = s.draws + 3 := rfl
@[simp] theorem State.failEvent_inputs (s : State) (e : BusEvent) : (s.failEvent e).inputs = s.inputs := rfl
@[simp] theorem State.failEvent_trace (s : State) (e : BusEvent) : (s.failEvent e).trace = s.trace ++ [e] := rfl
@[simp] theorem State.failEvent_refusal (s : State) (e : BusEvent) : (s.failEvent e).refusal = s.refusal := rfl
@[simp] theorem State.failEvent_seen (s : State) (e : BusEvent) : (s.failEvent e).seen = s.seen := rfl

/-! ## A transfer that begins. -/

@[simp] theorem State.sending_linkOpen (s : State) (tx : List Byte) : (s.sending tx).linkOpen = s.linkOpen := rfl
@[simp] theorem State.sending_pins (s : State) (tx : List Byte) : (s.sending tx).pins = s.pins := rfl
@[simp] theorem State.sending_initialized (s : State) (tx : List Byte) : (s.sending tx).initialized = s.initialized := rfl
@[simp] theorem State.sending_geometry (s : State) (tx : List Byte) : (s.sending tx).geometry = s.geometry := rfl
@[simp] theorem State.sending_seq (s : State) (tx : List Byte) : (s.sending tx).seq = s.seq := rfl
@[simp] theorem State.sending_stepIdx (s : State) (tx : List Byte) : (s.sending tx).stepIdx = s.stepIdx := rfl
@[simp] theorem State.sending_sb (s : State) (tx : List Byte) : (s.sending tx).sb = s.sb := rfl
@[simp] theorem State.sending_result (s : State) (tx : List Byte) : (s.sending tx).result = s.result := rfl
@[simp] theorem State.sending_value (s : State) (tx : List Byte) : (s.sending tx).value = s.value := rfl
@[simp] theorem State.sending_refused (s : State) (tx : List Byte) : (s.sending tx).refused = s.refused := rfl
@[simp] theorem State.sending_halted (s : State) (tx : List Byte) : (s.sending tx).halted = s.halted := rfl
@[simp] theorem State.sending_params (s : State) (tx : List Byte) : (s.sending tx).params = s.params := rfl
@[simp] theorem State.sending_device (s : State) (tx : List Byte) : (s.sending tx).device = s.device := rfl
@[simp] theorem State.sending_answers (s : State) (tx : List Byte) : (s.sending tx).answers = s.answers := rfl
@[simp] theorem State.sending_draws (s : State) (tx : List Byte) : (s.sending tx).draws = s.draws := rfl
@[simp] theorem State.sending_inputs (s : State) (tx : List Byte) : (s.sending tx).inputs = s.inputs := rfl
@[simp] theorem State.sending_trace (s : State) (tx : List Byte) : (s.sending tx).trace = s.trace := rfl
@[simp] theorem State.sending_refusal (s : State) (tx : List Byte) : (s.sending tx).refusal = s.refusal := rfl
@[simp] theorem State.sending_seen (s : State) (tx : List Byte) : (s.sending tx).seen = s.seen := rfl
@[simp] theorem State.sending_latches (s : State) (tx : List Byte) :
    (s.sending tx).latches = { s.latches with tx := some tx } := rfl

/-! ## A completed transfer. -/

@[simp] theorem State.completeXfer_linkOpen (s : State) (tx : List Byte) :
    (s.completeXfer tx).linkOpen = s.linkOpen := rfl
@[simp] theorem State.completeXfer_pins (s : State) (tx : List Byte) : (s.completeXfer tx).pins = s.pins := rfl
@[simp] theorem State.completeXfer_initialized (s : State) (tx : List Byte) :
    (s.completeXfer tx).initialized = s.initialized := rfl
@[simp] theorem State.completeXfer_geometry (s : State) (tx : List Byte) :
    (s.completeXfer tx).geometry = s.geometry := rfl
@[simp] theorem State.completeXfer_seq (s : State) (tx : List Byte) : (s.completeXfer tx).seq = s.seq := rfl
@[simp] theorem State.completeXfer_stepIdx (s : State) (tx : List Byte) :
    (s.completeXfer tx).stepIdx = s.stepIdx + 1 := rfl
@[simp] theorem State.completeXfer_sb (s : State) (tx : List Byte) : (s.completeXfer tx).sb = s.sb := rfl
@[simp] theorem State.completeXfer_result (s : State) (tx : List Byte) : (s.completeXfer tx).result = s.result := rfl
@[simp] theorem State.completeXfer_value (s : State) (tx : List Byte) : (s.completeXfer tx).value = s.value := rfl
@[simp] theorem State.completeXfer_refused (s : State) (tx : List Byte) :
    (s.completeXfer tx).refused = s.refused := rfl
@[simp] theorem State.completeXfer_halted (s : State) (tx : List Byte) : (s.completeXfer tx).halted = s.halted := rfl
@[simp] theorem State.completeXfer_latches (s : State) (tx : List Byte) :
    (s.completeXfer tx).latches = { s.latches with rx := some (s.device.respond s.params tx s.draws).bytes } := rfl
@[simp] theorem State.completeXfer_params (s : State) (tx : List Byte) : (s.completeXfer tx).params = s.params := rfl
@[simp] theorem State.completeXfer_device (s : State) (tx : List Byte) :
    (s.completeXfer tx).device = (s.device.respond s.params tx s.draws).device := rfl
@[simp] theorem State.completeXfer_answers (s : State) (tx : List Byte) :
    (s.completeXfer tx).answers = s.answers := rfl
@[simp] theorem State.completeXfer_draws (s : State) (tx : List Byte) :
    (s.completeXfer tx).draws = (s.device.respond s.params tx s.draws).draws := rfl
@[simp] theorem State.completeXfer_inputs (s : State) (tx : List Byte) : (s.completeXfer tx).inputs = s.inputs := rfl
@[simp] theorem State.completeXfer_trace (s : State) (tx : List Byte) :
    (s.completeXfer tx).trace = s.trace ++ [.xfer tx (s.device.respond s.params tx s.draws).bytes] := rfl
@[simp] theorem State.completeXfer_refusal (s : State) (tx : List Byte) :
    (s.completeXfer tx).refusal = s.refusal := rfl
@[simp] theorem State.completeXfer_seen (s : State) (tx : List Byte) : (s.completeXfer tx).seen = s.seen := rfl

/-! ## A request that begins. -/

@[simp] theorem State.begin_linkOpen (s : State) (op : Instr) : (s.begin op).linkOpen = s.linkOpen := rfl
@[simp] theorem State.begin_pins (s : State) (op : Instr) : (s.begin op).pins = s.pins := rfl
@[simp] theorem State.begin_initialized (s : State) (op : Instr) : (s.begin op).initialized = s.initialized := rfl
@[simp] theorem State.begin_geometry (s : State) (op : Instr) : (s.begin op).geometry = s.geometry := rfl
@[simp] theorem State.begin_seq (s : State) (op : Instr) : (s.begin op).seq = .run op := rfl
@[simp] theorem State.begin_stepIdx (s : State) (op : Instr) : (s.begin op).stepIdx = 0 := rfl
@[simp] theorem State.begin_sb (s : State) (op : Instr) : (s.begin op).sb = s.sb := rfl
@[simp] theorem State.begin_result (s : State) (op : Instr) : (s.begin op).result = s.result := rfl
@[simp] theorem State.begin_value (s : State) (op : Instr) : (s.begin op).value = s.value := rfl
@[simp] theorem State.begin_refused (s : State) (op : Instr) : (s.begin op).refused = s.refused := rfl
@[simp] theorem State.begin_halted (s : State) (op : Instr) : (s.begin op).halted = s.halted := rfl
@[simp] theorem State.begin_latches (s : State) (op : Instr) :
    (s.begin op).latches = { s.latches with reg := some op.regOperand, arg := some op.argOperand } := rfl
@[simp] theorem State.begin_params (s : State) (op : Instr) : (s.begin op).params = s.params := rfl
@[simp] theorem State.begin_device (s : State) (op : Instr) : (s.begin op).device = s.device := rfl
@[simp] theorem State.begin_answers (s : State) (op : Instr) : (s.begin op).answers = s.answers := rfl
@[simp] theorem State.begin_draws (s : State) (op : Instr) : (s.begin op).draws = s.draws := rfl
@[simp] theorem State.begin_inputs (s : State) (op : Instr) : (s.begin op).inputs = s.inputs := rfl
@[simp] theorem State.begin_trace (s : State) (op : Instr) : (s.begin op).trace = [] := rfl
@[simp] theorem State.begin_refusal (s : State) (op : Instr) : (s.begin op).refusal = none := rfl
@[simp] theorem State.begin_seen (s : State) (op : Instr) : (s.begin op).seen = s.seen := rfl

/-! ## A request that ends with a code. -/

@[simp] theorem State.finish_linkOpen (s : State) (c : Byte) : (s.finish c).linkOpen = s.linkOpen := rfl
@[simp] theorem State.finish_pins (s : State) (c : Byte) : (s.finish c).pins = s.pins := rfl
@[simp] theorem State.finish_initialized (s : State) (c : Byte) : (s.finish c).initialized = s.initialized := rfl
@[simp] theorem State.finish_geometry (s : State) (c : Byte) : (s.finish c).geometry = s.geometry := rfl
@[simp] theorem State.finish_seq (s : State) (c : Byte) : (s.finish c).seq = .idle := rfl
@[simp] theorem State.finish_stepIdx (s : State) (c : Byte) : (s.finish c).stepIdx = 0 := rfl
@[simp] theorem State.finish_sb (s : State) (c : Byte) : (s.finish c).sb = s.sb := rfl
@[simp] theorem State.finish_result (s : State) (c : Byte) : (s.finish c).result = some c := rfl
@[simp] theorem State.finish_value (s : State) (c : Byte) : (s.finish c).value = s.value := rfl
@[simp] theorem State.finish_refused (s : State) (c : Byte) : (s.finish c).refused = s.refused := rfl
@[simp] theorem State.finish_halted (s : State) (c : Byte) : (s.finish c).halted = s.halted := rfl
@[simp] theorem State.finish_latches (s : State) (c : Byte) : (s.finish c).latches = s.latches := rfl
@[simp] theorem State.finish_params (s : State) (c : Byte) : (s.finish c).params = s.params := rfl
@[simp] theorem State.finish_device (s : State) (c : Byte) : (s.finish c).device = s.device := rfl
@[simp] theorem State.finish_answers (s : State) (c : Byte) : (s.finish c).answers = s.answers := rfl
@[simp] theorem State.finish_draws (s : State) (c : Byte) : (s.finish c).draws = s.draws := rfl
@[simp] theorem State.finish_inputs (s : State) (c : Byte) : (s.finish c).inputs = s.inputs := rfl
@[simp] theorem State.finish_trace (s : State) (c : Byte) : (s.finish c).trace = s.trace := rfl
@[simp] theorem State.finish_refusal (s : State) (c : Byte) : (s.finish c).refusal = s.refusal := rfl
@[simp] theorem State.finish_seen (s : State) (c : Byte) : (s.finish c).seen = s.seen := rfl

/-! ## A request that raises an error. -/

@[simp] theorem State.raise_linkOpen (s : State) (e : Error) : (s.raise e).linkOpen = s.linkOpen := rfl
@[simp] theorem State.raise_pins (s : State) (e : Error) : (s.raise e).pins = s.pins := rfl
@[simp] theorem State.raise_initialized (s : State) (e : Error) : (s.raise e).initialized = s.initialized := rfl
@[simp] theorem State.raise_geometry (s : State) (e : Error) : (s.raise e).geometry = s.geometry := rfl
@[simp] theorem State.raise_seq (s : State) (e : Error) : (s.raise e).seq = .idle := rfl
@[simp] theorem State.raise_stepIdx (s : State) (e : Error) : (s.raise e).stepIdx = 0 := rfl
@[simp] theorem State.raise_sb (s : State) (e : Error) : (s.raise e).sb = s.sb := rfl
@[simp] theorem State.raise_result (s : State) (e : Error) : (s.raise e).result = some e.code := rfl
@[simp] theorem State.raise_value (s : State) (e : Error) : (s.raise e).value = s.value := rfl
@[simp] theorem State.raise_refused (s : State) (e : Error) : (s.raise e).refused = s.refused := rfl
@[simp] theorem State.raise_halted (s : State) (e : Error) :
    (s.raise e).halted = (s.halted || e == .transportFailure) := rfl
@[simp] theorem State.raise_latches (s : State) (e : Error) : (s.raise e).latches = s.latches := rfl
@[simp] theorem State.raise_params (s : State) (e : Error) : (s.raise e).params = s.params := rfl
@[simp] theorem State.raise_device (s : State) (e : Error) : (s.raise e).device = s.device := rfl
@[simp] theorem State.raise_answers (s : State) (e : Error) : (s.raise e).answers = s.answers := rfl
@[simp] theorem State.raise_draws (s : State) (e : Error) : (s.raise e).draws = s.draws := rfl
@[simp] theorem State.raise_inputs (s : State) (e : Error) : (s.raise e).inputs = s.inputs := rfl
@[simp] theorem State.raise_trace (s : State) (e : Error) : (s.raise e).trace = s.trace := rfl
@[simp] theorem State.raise_refusal (s : State) (e : Error) : (s.raise e).refusal = s.refusal := rfl
@[simp] theorem State.raise_seen (s : State) (e : Error) : (s.raise e).seen = s.seen := rfl

/-! ## A refused request. -/

@[simp] theorem State.refuse_linkOpen (s : State) (r : RefuseReason) : (s.refuse r).linkOpen = s.linkOpen := rfl
@[simp] theorem State.refuse_pins (s : State) (r : RefuseReason) : (s.refuse r).pins = s.pins := rfl
@[simp] theorem State.refuse_initialized (s : State) (r : RefuseReason) :
    (s.refuse r).initialized = s.initialized := rfl
@[simp] theorem State.refuse_geometry (s : State) (r : RefuseReason) : (s.refuse r).geometry = s.geometry := rfl
@[simp] theorem State.refuse_seq (s : State) (r : RefuseReason) : (s.refuse r).seq = s.seq := rfl
@[simp] theorem State.refuse_stepIdx (s : State) (r : RefuseReason) : (s.refuse r).stepIdx = s.stepIdx := rfl
@[simp] theorem State.refuse_sb (s : State) (r : RefuseReason) : (s.refuse r).sb = s.sb := rfl
@[simp] theorem State.refuse_result (s : State) (r : RefuseReason) : (s.refuse r).result = some codeRefused := rfl
@[simp] theorem State.refuse_value (s : State) (r : RefuseReason) : (s.refuse r).value = s.value := rfl
@[simp] theorem State.refuse_refused (s : State) (r : RefuseReason) : (s.refuse r).refused = true := rfl
@[simp] theorem State.refuse_halted (s : State) (r : RefuseReason) : (s.refuse r).halted = s.halted := rfl
@[simp] theorem State.refuse_latches (s : State) (r : RefuseReason) : (s.refuse r).latches = s.latches := rfl
@[simp] theorem State.refuse_params (s : State) (r : RefuseReason) : (s.refuse r).params = s.params := rfl
@[simp] theorem State.refuse_device (s : State) (r : RefuseReason) : (s.refuse r).device = s.device := rfl
@[simp] theorem State.refuse_answers (s : State) (r : RefuseReason) : (s.refuse r).answers = s.answers := rfl
@[simp] theorem State.refuse_draws (s : State) (r : RefuseReason) : (s.refuse r).draws = s.draws := rfl
@[simp] theorem State.refuse_inputs (s : State) (r : RefuseReason) : (s.refuse r).inputs = s.inputs := rfl
@[simp] theorem State.refuse_trace (s : State) (r : RefuseReason) : (s.refuse r).trace = [] := rfl
@[simp] theorem State.refuse_refusal (s : State) (r : RefuseReason) : (s.refuse r).refusal = some r := rfl
@[simp] theorem State.refuse_seen (s : State) (r : RefuseReason) : (s.refuse r).seen = s.seen := rfl

/-! ## The session ends. -/

@[simp] theorem State.endSession_linkOpen (s : State) : s.endSession.linkOpen = s.linkOpen := rfl
@[simp] theorem State.endSession_pins (s : State) : s.endSession.pins = s.pins := rfl
@[simp] theorem State.endSession_initialized (s : State) : s.endSession.initialized = false := rfl
@[simp] theorem State.endSession_geometry (s : State) : s.endSession.geometry = none := rfl
@[simp] theorem State.endSession_seq (s : State) : s.endSession.seq = s.seq := rfl
@[simp] theorem State.endSession_stepIdx (s : State) : s.endSession.stepIdx = s.stepIdx := rfl
@[simp] theorem State.endSession_sb (s : State) : s.endSession.sb = s.sb := rfl
@[simp] theorem State.endSession_result (s : State) : s.endSession.result = s.result := rfl
@[simp] theorem State.endSession_value (s : State) : s.endSession.value = s.value := rfl
@[simp] theorem State.endSession_refused (s : State) : s.endSession.refused = s.refused := rfl
@[simp] theorem State.endSession_halted (s : State) : s.endSession.halted = s.halted := rfl
@[simp] theorem State.endSession_latches (s : State) : s.endSession.latches = s.latches := rfl
@[simp] theorem State.endSession_params (s : State) : s.endSession.params = s.params := rfl
@[simp] theorem State.endSession_device (s : State) : s.endSession.device = s.device := rfl
@[simp] theorem State.endSession_answers (s : State) : s.endSession.answers = s.answers := rfl
@[simp] theorem State.endSession_draws (s : State) : s.endSession.draws = s.draws := rfl
@[simp] theorem State.endSession_inputs (s : State) : s.endSession.inputs = s.inputs := rfl
@[simp] theorem State.endSession_trace (s : State) : s.endSession.trace = s.trace := rfl
@[simp] theorem State.endSession_refusal (s : State) : s.endSession.refusal = s.refusal := rfl
@[simp] theorem State.endSession_seen (s : State) : s.endSession.seen = s.seen := rfl

/-! ## The value of a read-modify-write is held. -/

@[simp] theorem State.hold_linkOpen (s : State) (v : Word) : (s.hold v).linkOpen = s.linkOpen := rfl
@[simp] theorem State.hold_pins (s : State) (v : Word) : (s.hold v).pins = s.pins := rfl
@[simp] theorem State.hold_initialized (s : State) (v : Word) : (s.hold v).initialized = s.initialized := rfl
@[simp] theorem State.hold_geometry (s : State) (v : Word) : (s.hold v).geometry = s.geometry := rfl
@[simp] theorem State.hold_seq (s : State) (v : Word) : (s.hold v).seq = s.seq := rfl
@[simp] theorem State.hold_stepIdx (s : State) (v : Word) : (s.hold v).stepIdx = s.stepIdx := rfl
@[simp] theorem State.hold_sb (s : State) (v : Word) : (s.hold v).sb = s.sb := rfl
@[simp] theorem State.hold_result (s : State) (v : Word) : (s.hold v).result = s.result := rfl
@[simp] theorem State.hold_value (s : State) (v : Word) : (s.hold v).value = s.value := rfl
@[simp] theorem State.hold_refused (s : State) (v : Word) : (s.hold v).refused = s.refused := rfl
@[simp] theorem State.hold_halted (s : State) (v : Word) : (s.hold v).halted = s.halted := rfl
@[simp] theorem State.hold_latches (s : State) (v : Word) :
    (s.hold v).latches = { s.latches with held := some v } := rfl
@[simp] theorem State.hold_params (s : State) (v : Word) : (s.hold v).params = s.params := rfl
@[simp] theorem State.hold_device (s : State) (v : Word) : (s.hold v).device = s.device := rfl
@[simp] theorem State.hold_answers (s : State) (v : Word) : (s.hold v).answers = s.answers := rfl
@[simp] theorem State.hold_draws (s : State) (v : Word) : (s.hold v).draws = s.draws := rfl
@[simp] theorem State.hold_inputs (s : State) (v : Word) : (s.hold v).inputs = s.inputs := rfl
@[simp] theorem State.hold_trace (s : State) (v : Word) : (s.hold v).trace = s.trace := rfl
@[simp] theorem State.hold_refusal (s : State) (v : Word) : (s.hold v).refusal = s.refusal := rfl
@[simp] theorem State.hold_seen (s : State) (v : Word) : (s.hold v).seen = s.seen := rfl

/-! ## RST. -/

@[simp] theorem State.hardReset_linkOpen (s : State) : s.hardReset.linkOpen = false := rfl
@[simp] theorem State.hardReset_pins (s : State) : s.hardReset.pins = ⟨Pin.atReset, Pin.atReset, Pin.atReset⟩ := rfl
@[simp] theorem State.hardReset_initialized (s : State) : s.hardReset.initialized = false := rfl
@[simp] theorem State.hardReset_geometry (s : State) : s.hardReset.geometry = none := rfl
@[simp] theorem State.hardReset_seq (s : State) : s.hardReset.seq = .idle := rfl
@[simp] theorem State.hardReset_stepIdx (s : State) : s.hardReset.stepIdx = 0 := rfl
@[simp] theorem State.hardReset_sb (s : State) : s.hardReset.sb = [] := rfl
@[simp] theorem State.hardReset_result (s : State) : s.hardReset.result = none := rfl
@[simp] theorem State.hardReset_value (s : State) : s.hardReset.value = none := rfl
@[simp] theorem State.hardReset_refused (s : State) : s.hardReset.refused = false := rfl
@[simp] theorem State.hardReset_halted (s : State) : s.hardReset.halted = false := rfl
@[simp] theorem State.hardReset_latches (s : State) : s.hardReset.latches = Latches.atReset := rfl
@[simp] theorem State.hardReset_params (s : State) : s.hardReset.params = s.params := rfl
@[simp] theorem State.hardReset_device (s : State) :
    s.hardReset.device = if s.busy then s.device.lost else s.device := rfl
@[simp] theorem State.hardReset_answers (s : State) : s.hardReset.answers = s.answers := rfl
@[simp] theorem State.hardReset_draws (s : State) : s.hardReset.draws = s.draws := rfl
@[simp] theorem State.hardReset_inputs (s : State) : s.hardReset.inputs = s.inputs := rfl
@[simp] theorem State.hardReset_trace (s : State) : s.hardReset.trace = s.trace := rfl
@[simp] theorem State.hardReset_refusal (s : State) : s.hardReset.refusal = s.refusal := rfl
@[simp] theorem State.hardReset_seen (s : State) : s.hardReset.seen = s.seen := rfl

end Sys2Proof.Machine
end

