-- ==== Sys2Proof/Laws/Ops.lean ====
section
/-! SUPPORT. What the shared operations can do: what a bus operation leaves alone, whatever the transport answers, and
what it does when the transport completes. -/

namespace Sys2Proof.Machine

/-! ## Running on -/

/-- The state in which a part of a request left the block. -/
def Run.state {α : Type} : Run α → State
  | .ok _ s => s
  | .ended _ s => s

@[simp] theorem Run.state_ok {α : Type} (a : α) (s : State) : (Run.ok a s).state = s := rfl

@[simp] theorem Run.state_ended {α : Type} (w : Ending) (s : State) : (Run.ended w s : Run α).state = s := rfl

@[simp] theorem Run.bind_ok {α β : Type} (a : α) (s : State) (f : α → State → Run β) : (Run.ok a s).bind f = f a s :=
  rfl

@[simp] theorem Run.bind_ended {α β : Type} (w : Ending) (s : State) (f : α → State → Run β) :
    (Run.ended w s : Run α).bind f = .ended w s := rfl

theorem Run.bind_assoc {α β γ : Type} (r : Run α) (f : α → State → Run β) (g : β → State → Run γ) :
    (r.bind f).bind g = r.bind fun a s => (f a s).bind g := by
  cases r <;> rfl

/-- A property of the state that a part of a request has, and that the next part keeps, holds of both in sequence. -/
theorem Run.state_bind {α β : Type} {P : State → Prop} {r : Run α} {f : α → State → Run β} (hr : P r.state)
    (hf : ∀ a t, P t → P (f a t).state) : P (r.bind f).state := by
  cases r with
  | ok a t => exact hf a t hr
  | ended w t => exact hr

/-- What a sequence of parts yields, when it goes on. -/
theorem Run.bind_eq_ok {α β : Type} {r : Run α} {f : α → State → Run β} {b : β} {t : State}
    (h : r.bind f = .ok b t) : ∃ a u, r = .ok a u ∧ f a u = .ok b t := by
  cases r with
  | ok a u => exact ⟨a, u, rfl, h⟩
  | ended w u => cases h

/-- How a sequence of parts stops: in the first, or in the second. -/
theorem Run.bind_eq_ended {α β : Type} {r : Run α} {f : α → State → Run β} {w : Ending} {t : State}
    (h : r.bind f = .ended w t) : r = .ended w t ∨ ∃ a u, r = .ok a u ∧ f a u = .ended w t := by
  cases r with
  | ok a u => exact .inr ⟨a, u, rfl, h⟩
  | ended v u => cases h; exact .inl rfl

/-! ## What bus operations leave alone -/

/-- `t` differs from `s` only in what bus events write: the pins' levels and directions, the trace and step counter, the
latches, the device, the draws and the transport's pending answers. -/
structure BusOnly (s t : State) : Prop where
  linkOpen : t.linkOpen = s.linkOpen
  initialized : t.initialized = s.initialized
  geometry : t.geometry = s.geometry
  seq : t.seq = s.seq
  sb : t.sb = s.sb
  result : t.result = s.result
  value : t.value = s.value
  refused : t.refused = s.refused
  halted : t.halted = s.halted
  params : t.params = s.params
  inputs : t.inputs = s.inputs
  refusal : t.refusal = s.refusal
  seen : t.seen = s.seen

theorem BusOnly.refl (s : State) : BusOnly s s := ⟨rfl, rfl, rfl, rfl, rfl, rfl, rfl, rfl, rfl, rfl, rfl, rfl, rfl⟩

theorem BusOnly.trans {s t u : State} (h : BusOnly s t) (k : BusOnly t u) : BusOnly s u :=
  ⟨k.linkOpen.trans h.linkOpen, k.initialized.trans h.initialized, k.geometry.trans h.geometry, k.seq.trans h.seq,
    k.sb.trans h.sb, k.result.trans h.result, k.value.trans h.value, k.refused.trans h.refused,
    k.halted.trans h.halted, k.params.trans h.params, k.inputs.trans h.inputs, k.refusal.trans h.refusal,
    k.seen.trans h.seen⟩

/-- Two parts that are each bus operations are one in sequence. -/
theorem BusOnly.bind {α β : Type} {s : State} {r : Run α} {f : α → State → Run β} (hr : BusOnly s r.state)
    (hf : ∀ a t, BusOnly t (f a t).state) : BusOnly s (r.bind f).state :=
  Run.state_bind (P := BusOnly s) hr fun a t ht => ht.trans (hf a t)

/-- Writing a latch is a bus operation's effect. -/
theorem BusOnly.latches (s : State) (l : Latches) : BusOnly s { s with latches := l } :=
  ⟨rfl, rfl, rfl, rfl, rfl, rfl, rfl, rfl, rfl, rfl, rfl, rfl, rfl⟩

theorem emit_busOnly (e : BusEvent) (s : State) : BusOnly s (emit e s).state := by
  unfold emit attempt
  split <;> exact ⟨rfl, rfl, rfl, rfl, rfl, rfl, rfl, rfl, rfl, rfl, rfl, rfl, rfl⟩

theorem emitAll_busOnly (es : List BusEvent) (s : State) : BusOnly s (emitAll es s).state := by
  induction es generalizing s with
  | nil => exact .refl s
  | cons e rest ih => exact (emit_busOnly e s).bind fun _ t => ih t

theorem xfer_busOnly (tx : List Byte) (s : State) : BusOnly s (xfer tx s).state := by
  unfold xfer attempt
  split <;> exact ⟨rfl, rfl, rfl, rfl, rfl, rfl, rfl, rfl, rfl, rfl, rfl, rfl, rfl⟩

theorem transact_busOnly (tx : List Byte) (s : State) : BusOnly s (transact tx s).state :=
  (emit_busOnly _ s).bind fun _ t => (emit_busOnly _ t).bind fun _ u => (xfer_busOnly _ u).bind fun _ v =>
    (emit_busOnly _ v).bind fun _ w => .refl w

theorem regRead_busOnly (a : RegAddr) (s : State) : BusOnly s (regRead a s).state :=
  (transact_busOnly _ s).bind fun _ t => .refl t

theorem regWrite_busOnly (a : RegAddr) (v : Word) (s : State) : BusOnly s (regWrite a v s).state :=
  (transact_busOnly _ s).bind fun _ t => .refl t

theorem clearStatus_busOnly (s : State) : BusOnly s (clearStatus s).state :=
  (regRead_busOnly _ s).bind fun v t => (BusOnly.latches t _).trans (regWrite_busOnly _ v (t.hold v))

theorem enableWrite_busOnly (s : State) : BusOnly s (enableWrite s).state :=
  (regRead_busOnly _ s).bind fun v t => (BusOnly.latches t _).trans (regWrite_busOnly _ _ (t.hold v))

theorem pollLoop_busOnly (stage : Stage) (p left : Nat) (s : State) : BusOnly s (pollLoop stage p left s).state := by
  induction left generalizing p s with
  | zero => exact .refl s
  | succ left ih =>
    unfold pollLoop
    refine (BusOnly.latches s { s.latches with poll := some p }).trans ((regRead_busOnly _ _).bind fun st t => ?_)
    split
    · exact .refl t
    · cases left with
      | zero => exact .refl t
      | succ left => exact (emit_busOnly _ t).bind fun _ u => ih (p + 1) u

theorem waitReady_busOnly (stage : Stage) (s : State) : BusOnly s (waitReady stage s).state :=
  pollLoop_busOnly stage 1 _ s

theorem eraseBody_busOnly (lba : Word) (s : State) : BusOnly s (eraseBody lba s).state :=
  (clearStatus_busOnly s).bind fun _ t => (enableWrite_busOnly t).bind fun _ t =>
    (regWrite_busOnly _ _ t).bind fun _ t => (regWrite_busOnly _ _ t).bind fun _ t =>
      (regWrite_busOnly _ _ t).bind fun _ t => (regWrite_busOnly _ _ t).bind fun _ t => waitReady_busOnly _ t

theorem eraseFirst_busOnly (lba : Word) (s : State) : BusOnly s (eraseFirst lba s).state := by
  unfold eraseFirst
  split
  · exact eraseBody_busOnly lba s
  · exact .refl s

theorem writeWords_busOnly (n i : Nat) (s : State) : BusOnly s (writeWords n i s).state := by
  induction n generalizing i s with
  | zero => exact .refl s
  | succ n ih =>
    exact (BusOnly.latches s { s.latches with word := some i }).trans
      ((regWrite_busOnly _ _ _).bind fun _ t => (regWrite_busOnly _ _ t).bind fun _ u => ih (i + 1) u)

theorem wrsecBody_busOnly (lba : Word) (s : State) : BusOnly s (wrsecBody lba s).state :=
  (eraseFirst_busOnly lba s).bind fun _ t => (clearStatus_busOnly t).bind fun _ t =>
    (regWrite_busOnly _ _ t).bind fun _ t => (writeWords_busOnly _ _ t).bind fun _ t =>
      (waitReady_busOnly _ t).bind fun _ t => (regWrite_busOnly _ _ t).bind fun _ t =>
        (waitReady_busOnly _ t).bind fun _ t => (regWrite_busOnly _ _ t).bind fun _ t =>
          (regWrite_busOnly _ _ t).bind fun _ t => (regWrite_busOnly _ _ t).bind fun _ t => waitReady_busOnly _ t

/-! ## What bus operations do when the transport completes -/

theorem completes_drop {s : State} (h : s.TransportCompletes) (n : Nat) :
    ∀ a ∈ s.answers.drop n, a = Answer.completes :=
  fun a ha => h a (List.mem_of_mem_drop ha)

/-- A transport action that completes: one pending answer is used, if there is one. -/
theorem attempt_completes {α : Type} (e : BusEvent) {s : State} (done : State → Run α) (h : s.TransportCompletes) :
    attempt e s done = done { s with answers := s.answers.drop 1 } := by
  unfold attempt
  split
  · rename_i heq
    simp only [heq, List.drop_nil]
    rw [← heq]
  · rename_i heq
    simp [heq]
  all_goals
    rename_i heq
    have := h _ (heq ▸ List.mem_cons_self)
    cases this

theorem emit_completes (e : BusEvent) {s : State} (h : s.TransportCompletes) :
    emit e s = .ok () ({ s with answers := s.answers.drop 1 }.completeEvent e) :=
  attempt_completes e _ h

theorem xfer_completes (tx : List Byte) {s : State} (h : s.TransportCompletes) :
    xfer tx s =
      .ok (s.device.respond s.params tx s.draws).bytes
        ({ s.sending tx with answers := s.answers.drop 1 }.completeXfer tx) :=
  attempt_completes _ _ (s := s.sending tx) h

/-- The state after events that all completed. -/
def State.afterEvents (s : State) (es : List BusEvent) : State :=
  { s with
    answers := s.answers.drop es.length
    trace := s.trace ++ es
    stepIdx := s.stepIdx + es.length
    pins := es.foldl (fun ps e => drivePins e ps) s.pins }

theorem emitAll_completes (es : List BusEvent) {s : State} (h : s.TransportCompletes) :
    emitAll es s = .ok () (s.afterEvents es) := by
  induction es generalizing s with
  | nil => simp [emitAll, State.afterEvents]
  | cons e rest ih =>
    simp only [emitAll, emit_completes e h, Run.bind_ok]
    rw [ih (s := _) (fun a ha => h a (List.mem_of_mem_drop ha))]
    simp [State.afterEvents, State.completeEvent, State.note, Nat.add_comm]
    omega

/-- The state after a register transaction that completed (R111): the device answered, CS_N is high, four events. -/
def State.afterPulse (s : State) (tx : List Byte) : State :=
  let r := s.device.respond s.params tx s.draws
  { s with
    answers := s.answers.drop 4
    trace := s.trace ++ pulseEvents s.params tx r.bytes
    stepIdx := s.stepIdx + 4
    pins := { s.pins with csN := { s.pins.csN with level := some true } }
    device := r.device
    draws := r.draws
    latches := { s.latches with tx := some tx, rx := some r.bytes } }

theorem transact_completes (tx : List Byte) {s : State} (h : s.TransportCompletes) :
    transact tx s = .ok (s.device.respond s.params tx s.draws).bytes (s.afterPulse tx) := by
  have h1 : ∀ n, ∀ a ∈ s.answers.drop n, a = Answer.completes := completes_drop h
  unfold transact
  rw [emit_completes _ h, Run.bind_ok, emit_completes, Run.bind_ok, xfer_completes, Run.bind_ok, emit_completes,
    Run.bind_ok]
  · simp [State.afterPulse, State.completeEvent, State.completeXfer, State.sending, State.note, drivePins, Pins.set, Pins.get,
      pulseEvents]
  all_goals
    intro a ha
    simp only [State.completeEvent_answers, State.completeXfer_answers, List.drop_drop] at ha
    exact h1 _ a ha

theorem regRead_completes (a : RegAddr) {s : State} (h : s.TransportCompletes) :
    regRead a s =
      .ok (replyValue (s.device.respond s.params (readFrame s.params.turnaround a) s.draws).bytes)
        (s.afterPulse (readFrame s.params.turnaround a)) := by
  unfold regRead
  rw [transact_completes _ h, Run.bind_ok]

theorem regWrite_completes (a : RegAddr) (v : Word) {s : State} (h : s.TransportCompletes) :
    regWrite a v s = .ok () (s.afterPulse (writeFrame a v)) := by
  unfold regWrite
  rw [transact_completes _ h, Run.bind_ok]

/-- The transport completes what is left after a transaction. -/
theorem State.afterPulse_completes {s : State} (h : s.TransportCompletes) (tx : List Byte) :
    (s.afterPulse tx).TransportCompletes := completes_drop h 4

/-! ## How a request ends -/

/-- A request that is not admitted changes nothing but what a refusal writes (R205). -/
theorem serve_halted {op : Instr} {ready : Bool} {body : State → Run Unit} {s : State} (h : s.halted = true) :
    serve op ready body s = .next (s.refuse .halted) := by
  simp [serve, h]

theorem serve_unready {op : Instr} {body : State → Run Unit} {s : State} (h : s.halted = false) :
    serve op false body s = .next (s.refuse .precondition) := by
  simp [serve, h]

theorem serve_admitted {op : Instr} {body : State → Run Unit} {s : State} (h : s.halted = false) :
    serve op true body s = .next (conclude (body (s.begin op))) := by
  simp [serve, h]

theorem serveFrame_admitted {op : Instr} {body : State → Run Unit} {s : State} (h : s.halted = false) :
    serveFrame op true body s = .next (concludeFrame (body (s.begin op))) := by
  simp [serveFrame, h]

theorem serveFrame_unready {op : Instr} {body : State → Run Unit} {s : State} (h : s.halted = false) :
    serveFrame op false body s = .next (s.refuse .precondition) := by
  simp [serveFrame, h]

end Sys2Proof.Machine
end

