-- ==== Sys2Proof/Laws/Forms.lean ====
section
/-! SUPPORT. What bus operations keep, whatever the transport answers: the directions of the lines, the levels of the
handshake lines, the step counter as the length of the trace, and the form of the device. -/

namespace Sys2Proof.Machine

/-- `t` has the directions of `s`, the step counter goes with the trace, the parameters stay, and the device keeps its
form. -/
structure FormKept (s t : State) : Prop where
  dirA : t.pins.hsA.dir = s.pins.hsA.dir
  dirB : t.pins.hsB.dir = s.pins.hsB.dir
  dirC : t.pins.csN.dir = s.pins.csN.dir
  step : s.stepIdx = s.trace.length → t.stepIdx = t.trace.length
  params : t.params = s.params
  device : s.device.wf s.params = true → t.device.wf t.params = true

theorem FormKept.refl (s : State) : FormKept s s := ⟨rfl, rfl, rfl, id, rfl, id⟩

theorem FormKept.trans {s t u : State} (h : FormKept s t) (k : FormKept t u) : FormKept s u :=
  ⟨k.dirA.trans h.dirA, k.dirB.trans h.dirB, k.dirC.trans h.dirC, k.step ∘ h.step,
    k.params.trans h.params, k.device ∘ h.device⟩

theorem FormKept.bind {α β : Type} {s : State} {r : Run α} {f : α → State → Run β} (hr : FormKept s r.state)
    (hf : ∀ a t, FormKept t (f a t).state) : FormKept s (r.bind f).state :=
  Run.state_bind (P := FormKept s) hr fun a t ht => ht.trans (hf a t)

theorem FormKept.latches (s : State) (l : Latches) : FormKept s { s with latches := l } := ⟨rfl, rfl, rfl, id, rfl, id⟩

/-- An event that sets no direction. -/
def BusEvent.keepsDirections : BusEvent → Prop
  | .pinDir _ => False
  | .pin _ _ => True
  | .delay _ => True
  | .chanOpen _ => True
  | .chanClose => True
  | .xfer _ _ => True

theorem drivePins_dir {e : BusEvent} (h : e.keepsDirections) (ps : Pins) :
    (drivePins e ps).hsA.dir = ps.hsA.dir ∧ (drivePins e ps).hsB.dir = ps.hsB.dir ∧
      (drivePins e ps).csN.dir = ps.csN.dir := by
  cases e with
  | pinDir l => cases h
  | pin l v => cases l <;> exact ⟨rfl, rfl, rfl⟩
  | _ => exact ⟨rfl, rfl, rfl⟩

theorem unsureLine_dir {e : BusEvent} (h : e.keepsDirections) (b : Bool) (ps : Pins) :
    (unsureLine e b ps).hsA.dir = ps.hsA.dir ∧ (unsureLine e b ps).hsB.dir = ps.hsB.dir ∧
      (unsureLine e b ps).csN.dir = ps.csN.dir := by
  cases e with
  | pinDir l => cases h
  | pin l v => cases l <;> exact ⟨rfl, rfl, rfl⟩
  | _ => exact ⟨rfl, rfl, rfl⟩

theorem unsurePins_dir {e : BusEvent} (h : e.keepsDirections) (linkOpen : Bool) (k : Nat) (ps : Pins) :
    (unsurePins linkOpen e k ps).hsA.dir = ps.hsA.dir ∧ (unsurePins linkOpen e k ps).hsB.dir = ps.hsB.dir ∧
      (unsurePins linkOpen e k ps).csN.dir = ps.csN.dir := by
  cases linkOpen with
  | false => exact unsureLine_dir h _ ps
  | true => exact ⟨rfl, rfl, rfl⟩

/-- With the link closed a failed event leaves every line but its own as it was (R118). -/
theorem unsurePins_of_closed {e : BusEvent} {l : ControlLine} (h : e.line ≠ some l) (k : Nat) (ps : Pins) :
    (unsurePins false e k ps).get l = ps.get l := by
  cases e with
  | pinDir m => cases m <;> cases l <;> first | rfl | exact absurd rfl h
  | pin m v => cases m <;> cases l <;> first | rfl | exact absurd rfl h
  | _ => rfl

theorem note_step {s : State} (e : BusEvent) (h : s.stepIdx = s.trace.length) :
    (s.note e).stepIdx = (s.note e).trace.length := by
  simp [h]

/-- The step counter goes with the trace through any emitted event. -/
theorem emit_step (e : BusEvent) {s : State} (h : s.stepIdx = s.trace.length) :
    (emit e s).state.stepIdx = (emit e s).state.trace.length := by
  unfold emit attempt
  split
  · exact note_step e h
  · exact note_step e h
  · exact note_step (s := { s with answers := _ }) e h
  · exact h
  · exact h

theorem emit_formKept {e : BusEvent} (he : e.keepsDirections) (s : State) : FormKept s (emit e s).state := by
  have hd := drivePins_dir he s.pins
  have hu := unsurePins_dir he s.linkOpen s.draws s.pins
  unfold emit attempt
  split
  · exact ⟨hd.1, hd.2.1, hd.2.2, note_step e, rfl, id⟩
  · exact ⟨hd.1, hd.2.1, hd.2.2, note_step e, rfl, id⟩
  · exact ⟨hu.1, hu.2.1, hu.2.2, note_step e, rfl, wf_lost⟩
  · exact ⟨rfl, rfl, rfl, id, rfl, id⟩
  · exact ⟨rfl, rfl, rfl, id, rfl, id⟩

theorem emitAll_formKept {es : List BusEvent} (he : ∀ e ∈ es, e.keepsDirections) (s : State) :
    FormKept s (emitAll es s).state := by
  induction es generalizing s with
  | nil => exact .refl s
  | cons e rest ih =>
    exact (emit_formKept (he e List.mem_cons_self) s).bind fun _ t =>
      ih (fun e' h => he e' (List.mem_cons_of_mem _ h)) t

theorem xfer_formKept (tx : List Byte) (s : State) : FormKept s (xfer tx s).state := by
  have hu := unsurePins_dir (e := .xfer tx []) trivial s.linkOpen s.draws s.pins
  unfold xfer attempt
  split
  · exact ⟨rfl, rfl, rfl, note_step _, rfl, fun h => wf_respond h _ _⟩
  · exact ⟨rfl, rfl, rfl, note_step _, rfl, fun h => wf_respond h _ _⟩
  · exact ⟨hu.1, hu.2.1, hu.2.2, note_step _, rfl, wf_lost⟩
  · exact ⟨rfl, rfl, rfl, id, rfl, id⟩
  · exact ⟨rfl, rfl, rfl, id, rfl, id⟩

theorem transact_formKept (tx : List Byte) (s : State) : FormKept s (transact tx s).state :=
  (emit_formKept (e := .pin _ _) trivial s).bind fun _ t => (emit_formKept (e := .delay _) trivial t).bind fun _ u =>
    (xfer_formKept _ u).bind fun _ v => (emit_formKept (e := .pin _ _) trivial v).bind fun _ w => .refl w

theorem regRead_formKept (a : RegAddr) (s : State) : FormKept s (regRead a s).state :=
  (transact_formKept _ s).bind fun _ t => .refl t

theorem regWrite_formKept (a : RegAddr) (v : Word) (s : State) : FormKept s (regWrite a v s).state :=
  (transact_formKept _ s).bind fun _ t => .refl t

theorem clearStatus_formKept (s : State) : FormKept s (clearStatus s).state :=
  (regRead_formKept _ s).bind fun v t => (FormKept.latches t _).trans (regWrite_formKept _ v (t.hold v))

theorem enableWrite_formKept (s : State) : FormKept s (enableWrite s).state :=
  (regRead_formKept _ s).bind fun v t => (FormKept.latches t _).trans (regWrite_formKept _ _ (t.hold v))

theorem pollLoop_formKept (stage : Stage) (p left : Nat) (s : State) : FormKept s (pollLoop stage p left s).state := by
  induction left generalizing p s with
  | zero => exact .refl s
  | succ left ih =>
    unfold pollLoop
    refine (FormKept.latches s { s.latches with poll := some p }).trans ((regRead_formKept _ _).bind fun st t => ?_)
    split
    · exact .refl t
    · cases left with
      | zero => exact .refl t
      | succ left => exact (emit_formKept (e := .delay _) trivial t).bind fun _ u => ih (p + 1) u

theorem waitReady_formKept (stage : Stage) (s : State) : FormKept s (waitReady stage s).state :=
  pollLoop_formKept stage 1 _ s

theorem eraseBody_formKept (lba : Word) (s : State) : FormKept s (eraseBody lba s).state :=
  (clearStatus_formKept s).bind fun _ t => (enableWrite_formKept t).bind fun _ t =>
    (regWrite_formKept _ _ t).bind fun _ t => (regWrite_formKept _ _ t).bind fun _ t =>
      (regWrite_formKept _ _ t).bind fun _ t => (regWrite_formKept _ _ t).bind fun _ t => waitReady_formKept _ t

theorem eraseFirst_formKept (lba : Word) (s : State) : FormKept s (eraseFirst lba s).state := by
  unfold eraseFirst
  split
  · exact eraseBody_formKept lba s
  · exact .refl s

theorem writeWords_formKept (n i : Nat) (s : State) : FormKept s (writeWords n i s).state := by
  induction n generalizing i s with
  | zero => exact .refl s
  | succ n ih =>
    exact (FormKept.latches s { s.latches with word := some i }).trans
      ((regWrite_formKept _ _ _).bind fun _ t => (regWrite_formKept _ _ t).bind fun _ u => ih (i + 1) u)

theorem wrsecBody_formKept (lba : Word) (s : State) : FormKept s (wrsecBody lba s).state :=
  (eraseFirst_formKept lba s).bind fun _ t => (clearStatus_formKept t).bind fun _ t =>
    (regWrite_formKept _ _ t).bind fun _ t => (writeWords_formKept _ _ t).bind fun _ t =>
      (waitReady_formKept _ t).bind fun _ t => (regWrite_formKept _ _ t).bind fun _ t =>
        (waitReady_formKept _ t).bind fun _ t => (regWrite_formKept _ _ t).bind fun _ t =>
          (regWrite_formKept _ _ t).bind fun _ t => (regWrite_formKept _ _ t).bind fun _ t => waitReady_formKept _ t

theorem readWords_formKept (n i : Nat) (s : State) : FormKept s (readWords n i s).state := by
  induction n generalizing i s with
  | zero => exact .refl s
  | succ n ih =>
    exact (FormKept.latches s { s.latches with word := some i }).trans
      ((regWrite_formKept _ _ _).bind fun _ t => (regRead_formKept _ t).bind fun w u =>
        FormKept.trans (t := { u with sb := sbPutWord u.sb i w }) ⟨rfl, rfl, rfl, id, rfl, id⟩ (ih (i + 1) _))

theorem rdsecBody_formKept (lba : Word) (s : State) : FormKept s (rdsecBody lba s).state :=
  (clearStatus_formKept s).bind fun _ t => (regWrite_formKept _ _ t).bind fun _ t =>
    (regWrite_formKept _ _ t).bind fun _ t => (waitReady_formKept _ t).bind fun _ t =>
      (regWrite_formKept _ _ t).bind fun _ t => readWords_formKept _ _ t

theorem closeBody_formKept (s : State) : FormKept s (closeBody s).state :=
  (emitAll_formKept (by simp [closeEvents, BusEvent.keepsDirections]) s).bind fun _ _ =>
    ⟨rfl, rfl, rfl, id, rfl, fun h => wf_closed h _⟩

theorem enterBody_formKept (s : State) : FormKept s (enterBody s).state :=
  (emitAll_formKept (by simp [enterEvents, BusEvent.keepsDirections]) s).bind fun _ _ =>
    ⟨rfl, rfl, rfl, id, rfl, wf_entered⟩

theorem leaveBody_formKept (s : State) : FormKept s (leaveBody s).state := by
  refine (emitAll_formKept ?_ s).bind fun _ _ => ⟨rfl, rfl, rfl, id, rfl, wf_left⟩
  intro e he
  obtain ⟨x, -, rfl⟩ := List.mem_map.mp he
  cases x <;> trivial

end Sys2Proof.Machine
end

