-- ==== Sys2Proof/Laws/PerInstr.lean ====
section
/-! SUPPORT. The per-instruction family of LAWS.json: the form of an encoded instruction. -/

namespace Sys2Proof.Laws.EncodedForm

/-- An instruction is well formed, a request is six bytes with one of the ten operation codes and its operands in its
fields (R86, R87), and a frame is six or five bytes with its type and register in the header (R90, R95). -/
def Statement (i : Instr) : Prop :=
  i.wellFormed = true ∧ ∀ turnaround : Byte,
    match i.port with
    | .request => (encode turnaround i).length = 6 ∧ 1 ≤ i.opCode.toNat ∧ i.opCode.toNat ≤ 10
    | .link => (encode turnaround i).length = 5 ∨ (encode turnaround i).length = 6

/-- Every term of the syntax is well formed, because its operands have the widths of their fields. -/
theorem wellFormed (i : Instr) : i.wellFormed = true := by
  unfold Instr.wellFormed
  simp only [Bool.and_eq_true, decide_eq_true_eq]
  exact ⟨i.regOperand.isLt, i.argOperand.isLt⟩

theorem openLink : Statement .openLink := ⟨wellFormed _, fun _ => ⟨rfl, Nat.le_of_ble_eq_true rfl, Nat.le_of_ble_eq_true rfl⟩⟩

theorem closeLink : Statement .closeLink := ⟨wellFormed _, fun _ => ⟨rfl, Nat.le_of_ble_eq_true rfl, Nat.le_of_ble_eq_true rfl⟩⟩

theorem enter : Statement .enter := ⟨wellFormed _, fun _ => ⟨rfl, Nat.le_of_ble_eq_true rfl, Nat.le_of_ble_eq_true rfl⟩⟩

theorem leave : Statement .leave := ⟨wellFormed _, fun _ => ⟨rfl, Nat.le_of_ble_eq_true rfl, Nat.le_of_ble_eq_true rfl⟩⟩

theorem rdreg (a : RegAddr) : Statement (.rdreg a) := ⟨wellFormed _, fun _ => ⟨rfl, Nat.le_of_ble_eq_true rfl, Nat.le_of_ble_eq_true rfl⟩⟩

theorem wrreg (a : RegAddr) (v : Word) : Statement (.wrreg a v) :=
  ⟨wellFormed _, fun _ => ⟨rfl, Nat.le_of_ble_eq_true rfl, Nat.le_of_ble_eq_true rfl⟩⟩

theorem init : Statement .init := ⟨wellFormed _, fun _ => ⟨rfl, Nat.le_of_ble_eq_true rfl, Nat.le_of_ble_eq_true rfl⟩⟩

theorem rdsec (lba : Word) : Statement (.rdsec lba) := ⟨wellFormed _, fun _ => ⟨rfl, Nat.le_of_ble_eq_true rfl, Nat.le_of_ble_eq_true rfl⟩⟩

theorem wrsec (lba : Word) : Statement (.wrsec lba) := ⟨wellFormed _, fun _ => ⟨rfl, Nat.le_of_ble_eq_true rfl, Nat.le_of_ble_eq_true rfl⟩⟩

theorem erase (lba : Word) : Statement (.erase lba) := ⟨wellFormed _, fun _ => ⟨rfl, Nat.le_of_ble_eq_true rfl, Nat.le_of_ble_eq_true rfl⟩⟩

theorem spiRd (a : RegAddr) : Statement (.spiRd a) := ⟨wellFormed _, fun _ => .inr rfl⟩

theorem spiWr (a : RegAddr) (v : Word) : Statement (.spiWr a v) := ⟨wellFormed _, fun _ => .inl rfl⟩

end Sys2Proof.Laws.EncodedForm
end

