-- ==== Sys2Proof/Laws/Transactions.lean ====
section
/-! SUPPORT. What sequences of register transactions do when the transport completes: the events they add, that the
device has seen as many transfers, and that nothing else of the block changes. -/

namespace Sys2Proof.Machine

/-- The state after register transactions that completed, with the bus events `es`: the device, the draws and the
latches are what the transactions left. -/
def State.sent (s : State) (es : List BusEvent) (d : Device) (k : Nat) (l : Latches) : State :=
  { s with
    answers := s.answers.drop es.length
    trace := s.trace ++ es
    stepIdx := s.stepIdx + es.length
    pins := s.pins.csHigh
    device := d
    draws := k
    latches := l }

/-- Transactions after transactions. -/
theorem State.sent_sent (s : State) (es es' : List BusEvent) (d d' : Device) (k k' : Nat) (l l' : Latches) :
    (s.sent es d k l).sent es' d' k' l' = s.sent (es ++ es') d' k' l' := by
  simp [State.sent, Pins.csHigh, Nat.add_assoc]

/-- The transport completes what follows transactions that completed. -/
theorem State.sent_completes {s : State} (h : s.TransportCompletes) (es : List BusEvent) (d : Device) (k : Nat)
    (l : Latches) : (s.sent es d k l).TransportCompletes := completes_drop h _

/-- One register transaction that completed, as transactions. -/
theorem State.afterPulse_eq_sent (s : State) (tx : List Byte) :
    s.afterPulse tx =
      s.sent (pulseEvents s.params tx (s.device.respond s.params tx s.draws).bytes)
        (s.device.respond s.params tx s.draws).device (s.device.respond s.params tx s.draws).draws
        { s.latches with tx := some tx, rx := some (s.device.respond s.params tx s.draws).bytes } := rfl

/-- A property of the device's next `n` answers that a transfer leaves true of the next `n - 1`, as `readyFor` and
`busyFor` are. -/
def Descends (P : Params → Nat → Device → Nat → Prop) : Prop :=
  ∀ p n d k tx, P p (n + 1) d k → tx.length ≤ 6 → P p n (d.respond p tx k).device (d.respond p tx k).draws

theorem descends_readyFor : Descends Device.readyFor := fun _ _ _ _ tx h ht => (h tx ht).2

theorem descends_busyFor : Descends Device.busyFor := fun _ _ _ _ tx h ht => (h tx ht).2

/-- The part `r` of a request, run from `s`, adds the events `es` of register transactions and goes on with `a`; the
device then has the property `P` for `m` more answers, and the operand latches stay. -/
def Sends {α : Type} (P : Params → Nat → Device → Nat → Prop) (m : Nat) (s : State) (es : List BusEvent) (a : α)
    (r : Run α) : Prop :=
  ∃ d k l, r = .ok a (s.sent es d k l) ∧ P s.params m d k ∧ l.reg = s.latches.reg ∧ l.arg = s.latches.arg

/-- The part `r` of a request, run from `s`, adds the events `es` and ends with a timeout. -/
def SendsThenTimesOut (s : State) (es : List BusEvent) (stage : Stage) (r : Run Unit) : Prop :=
  ∃ d k l, r = .ended (.raised (.timeout stage)) (s.sent es d k l) ∧ l.reg = s.latches.reg ∧ l.arg = s.latches.arg

variable {P : Params → Nat → Device → Nat → Prop} {m : Nat} {s : State}

/-- A register write is one transaction (R130). -/
theorem regWrite_sends (hP : Descends P) (a : RegAddr) (v : Word) (hc : s.TransportCompletes)
    (h : P s.params (m + 1) s.device s.draws) :
    ∃ rx, Sends P m s (transactionEvents s.params [.write a v rx]) () (regWrite a v s) := by
  rw [regWrite_completes a v hc, State.afterPulse_eq_sent]
  let rx := (s.device.respond s.params (writeFrame a v) s.draws).bytes
  refine ⟨rx, _, _, { s.latches with tx := some (writeFrame a v), rx := some rx }, ?_,
    hP _ _ _ _ (writeFrame a v) h (Nat.le_succ 5), rfl, rfl⟩
  rw [show transactionEvents s.params [_] = _ from List.append_nil _]
  rfl

/-- A register read is one transaction, and its value is the reply's (R127). -/
theorem regRead_sends (hP : Descends P) (a : RegAddr) (hc : s.TransportCompletes)
    (h : P s.params (m + 1) s.device s.draws) :
    ∃ rx, Sends P m s (transactionEvents s.params [.read a rx]) (replyValue rx) (regRead a s) := by
  rw [regRead_completes a hc, State.afterPulse_eq_sent]
  let tx := readFrame s.params.turnaround a
  let rx := (s.device.respond s.params tx s.draws).bytes
  refine ⟨rx, _, _, { s.latches with tx := some tx, rx := some rx }, ?_,
    hP _ _ _ _ tx h (Nat.le_refl 6), rfl, rfl⟩
  rw [show transactionEvents s.params [_] = _ from List.append_nil _]
  rfl

theorem transactionEvents_append (p : Params) (ts us : List Transaction) :
    transactionEvents p (ts ++ us) = transactionEvents p ts ++ transactionEvents p us := by
  simp [transactionEvents]

/-- Each transaction is four events (R111). -/
theorem transactionEvents_length (p : Params) (ts : List Transaction) :
    (transactionEvents p ts).length = 4 * ts.length := by
  induction ts with
  | nil => rfl
  | cons t rest ih =>
    rw [← List.singleton_append, transactionEvents_append, List.length_append, ih]
    cases t <;> simp [transactionEvents, Transaction.events, pulseEvents] <;> omega

/-- A part that sends transactions, then a part that does. -/
theorem Sends.bind {α β : Type} {es es' : List BusEvent} {a : α} {b : β} {r : Run α} {f : α → State → Run β}
    {m' : Nat} (hr : Sends P m s es a r) (hc : s.TransportCompletes)
    (hf : ∀ t : State, t.TransportCompletes → P t.params m t.device t.draws → t.params = s.params → t.sb = s.sb →
      t.geometry = s.geometry → Sends P m' t es' b (f a t)) :
    Sends P m' s (es ++ es') b (r.bind f) := by
  obtain ⟨d, k, l, rfl, hp, h1, h2⟩ := hr
  obtain ⟨d', k', l', h', hp', h1', h2'⟩ := hf (s.sent es d k l) (State.sent_completes hc _ _ _ _) hp rfl rfl rfl
  refine ⟨d', k', l', ?_, hp', h1'.trans h1, h2'.trans h2⟩
  rw [Run.bind_ok, h', State.sent_sent]

/-- Status clear is a read and a write of the status register (R166). -/
theorem clearStatus_sends (hP : Descends P) (hc : s.TransportCompletes) (h : P s.params (m + 2) s.device s.draws) :
    ∃ r0 r1, Sends P m s
      (transactionEvents s.params
        [.read s.params.regStatus r0, .write s.params.regStatus (replyValue r0) r1]) () (clearStatus s) := by
  obtain ⟨r0, d, k, l, e0, hp, h1, h2⟩ := regRead_sends hP s.params.regStatus hc h
  have hc' : ((s.sent (transactionEvents s.params [.read s.params.regStatus r0]) d k l).hold
      (replyValue r0)).TransportCompletes := completes_drop hc _
  obtain ⟨r1, d', k', l', e1, hp', h1', h2'⟩ := regWrite_sends hP s.params.regStatus (replyValue r0) hc' hp
  refine ⟨r0, r1, d', k', l', ?_, hp', h1'.trans h1, h2'.trans h2⟩
  unfold clearStatus
  rw [e0, Run.bind_ok]
  show regWrite s.params.regStatus _ _ = _
  rw [e1]
  simp [State.hold, State.sent, Pins.csHigh, Nat.add_assoc, transactionEvents]

/-- Setting the write/erase-enable bit is a read and a write of the configuration register (R172). -/
theorem enableWrite_sends (hP : Descends P) (hc : s.TransportCompletes) (h : P s.params (m + 2) s.device s.draws) :
    ∃ r0 r1, Sends P m s
      (transactionEvents s.params
        [.read s.params.regConfig r0, .write s.params.regConfig (replyValue r0 ||| s.params.weMask) r1]) ()
      (enableWrite s) := by
  obtain ⟨r0, d, k, l, e0, hp, h1, h2⟩ := regRead_sends hP s.params.regConfig hc h
  have hc' : ((s.sent (transactionEvents s.params [.read s.params.regConfig r0]) d k l).hold
      (replyValue r0)).TransportCompletes := completes_drop hc _
  obtain ⟨r1, d', k', l', e1, hp', h1', h2'⟩ :=
    regWrite_sends hP s.params.regConfig (replyValue r0 ||| s.params.weMask) hc' hp
  refine ⟨r0, r1, d', k', l', ?_, hp', h1'.trans h1, h2'.trans h2⟩
  unfold enableWrite
  rw [e0, Run.bind_ok]
  show regWrite s.params.regConfig _ _ = _
  rw [show (s.sent (transactionEvents s.params [Transaction.read s.params.regConfig r0]) d k l).params = s.params
    from rfl, e1]
  simp [State.hold, State.sent, Pins.csHigh, Nat.add_assoc, transactionEvents]

/-- Wait-ready on a device that is ready is one status read (R164). -/
theorem waitReady_sends (stage : Stage) (hm : 1 ≤ s.params.pollMax) (hc : s.TransportCompletes)
    (h : Device.readyFor s.params (m + 1) s.device s.draws) :
    ∃ rx, Sends Device.readyFor m s (transactionEvents s.params [.read s.params.regStatus rx]) () (waitReady stage s) := by
  obtain ⟨n, hn⟩ : ∃ n, s.params.pollMax = n + 1 := ⟨_, (Nat.sub_add_cancel hm).symm⟩
  rw [waitReady, hn, pollLoop]
  have h0 := h (readFrame s.params.turnaround s.params.regStatus) (Nat.le_refl 6)
  refine ⟨(s.device.respond s.params (readFrame s.params.turnaround s.params.regStatus) s.draws).bytes, ?_⟩
  rw [regRead_completes _ (by exact hc), Run.bind_ok, if_pos (by exact h0.1 rfl)]
  exact ⟨_, _, _, rfl, h0.2, rfl, rfl⟩

/-- The polls of wait-ready, the first apart (R164). -/
theorem pollEvents_cons (p : Params) (rx : List Byte) (rest : List (List Byte)) (h : rest ≠ []) :
    pollEvents p (rx :: rest) = Transaction.events p (.read p.regStatus rx) ++ [.delay p.tPoll] ++ pollEvents p rest := by
  cases rest with
  | nil => exact absurd rfl h
  | cons => rfl

/-- Polls are four events each, with a delay between two (R164). -/
theorem pollEvents_length (p : Params) (rxs : List (List Byte)) (h : rxs ≠ []) :
    (pollEvents p rxs).length + 1 = 5 * rxs.length := by
  induction rxs with
  | nil => exact absurd rfl h
  | cons rx rest ih =>
    by_cases h2 : rest = []
    · subst h2
      rfl
    · have := ih h2
      rw [pollEvents_cons _ _ _ h2]
      simp [Transaction.events, pulseEvents] at *
      omega

/-- The polls on a device that is busy at each of them: all are sent, and the wait times out (R164). -/
theorem pollLoop_times_out (stage : Stage) (left i : Nat) {s : State} (hc : s.TransportCompletes)
    (h : Device.busyFor s.params (left + 1) s.device s.draws) :
    ∃ polls, polls.length = left + 1 ∧
      SendsThenTimesOut s (pollEvents s.params polls) stage (pollLoop stage i (left + 1) s) := by
  induction left generalizing s i with
  | zero =>
    rw [pollLoop]
    have h0 := h (readFrame s.params.turnaround s.params.regStatus) (Nat.le_refl 6)
    refine ⟨[(s.device.respond s.params (readFrame s.params.turnaround s.params.regStatus) s.draws).bytes], rfl, ?_⟩
    rw [regRead_completes _ (by exact hc), Run.bind_ok, if_neg (by exact h0.1 rfl)]
    exact ⟨_, _, _, rfl, rfl, rfl⟩
  | succ left ih =>
    rw [pollLoop]
    set s' : State := { s with latches := { s.latches with poll := some i } } with hs'
    have hc' : s'.TransportCompletes := hc
    have h0 := h (readFrame s.params.turnaround s.params.regStatus) (Nat.le_refl 6)
    rw [regRead_completes _ hc', Run.bind_ok, if_neg (by exact h0.1 rfl)]
    have hc2 := State.afterPulse_completes hc' (readFrame s'.params.turnaround s'.params.regStatus)
    simp only []
    rw [emit_completes _ hc2, Run.bind_ok]
    set u : State := State.completeEvent _ _ with hu
    obtain ⟨polls, hl, d, k, l, e, e1, e2⟩ := ih (i + 1) (s := u) (completes_drop hc2 1) h0.2
    refine ⟨(s.device.respond s.params (readFrame s.params.turnaround s.params.regStatus) s.draws).bytes :: polls,
      by simp [hl], d, k, l, ?_, e1, e2⟩
    rw [pollEvents_cons _ _ _ (by intro h; simp [h] at hl), e, show u.params = s.params from rfl]
    simp [hu, State.sent, State.completeEvent, State.note, State.afterPulse, hs', Pins.csHigh, drivePins,
      Nat.add_assoc, Transaction.events, pulseEvents, Nat.add_comm, Nat.add_left_comm]
    omega

/-- Wait-ready on a device that stays busy sends every poll and times out (R164). -/
theorem waitReady_times_out (stage : Stage) (hm : 1 ≤ s.params.pollMax) (hc : s.TransportCompletes)
    (h : Device.busyFor s.params s.params.pollMax s.device s.draws) :
    ∃ polls, polls.length = s.params.pollMax ∧
      SendsThenTimesOut s (pollEvents s.params polls) stage (waitReady stage s) := by
  obtain ⟨n, hn⟩ : ∃ n, s.params.pollMax = n + 1 := ⟨_, (Nat.sub_add_cancel hm).symm⟩
  rw [waitReady]
  rw [hn] at h ⊢
  exact pollLoop_times_out stage n 1 hc h

/-- Nothing asked of the device's next answers. -/
def anyAnswers : Params → Nat → Device → Nat → Prop := fun _ _ _ _ => True

theorem descends_anyAnswers : Descends anyAnswers := fun _ _ _ _ _ _ _ => trivial

/-- The polls on any device: busy ones up to the first ready one, or all busy and the wait times out (R164). -/
theorem pollLoop_ends (stage : Stage) (left i : Nat) {s : State} (hc : s.TransportCompletes) :
    ∃ polls, polls.length ≤ left + 1 ∧
      ((∃ busy last, polls = busy ++ [last] ∧ (∀ rx ∈ busy, statusBusy s.params rx = true) ∧
          statusBusy s.params last = false ∧
          Sends anyAnswers 0 s (pollEvents s.params polls) () (pollLoop stage i (left + 1) s)) ∨
        (polls.length = left + 1 ∧ (∀ rx ∈ polls, statusBusy s.params rx = true) ∧
          SendsThenTimesOut s (pollEvents s.params polls) stage (pollLoop stage i (left + 1) s))) := by
  induction left generalizing s i with
  | zero =>
    rw [pollLoop, regRead_completes _ (by exact hc), Run.bind_ok]
    set rx := (s.device.respond s.params (readFrame s.params.turnaround s.params.regStatus) s.draws).bytes with hrx
    refine ⟨[rx], Nat.le_refl _, ?_⟩
    by_cases h0 : replyValue rx &&& s.params.busyMask = 0
    · refine .inl ⟨[], rx, rfl, by simp, by simp [statusBusy, h0], ?_⟩
      rw [if_pos (by exact h0)]
      exact ⟨_, _, _, rfl, trivial, rfl, rfl⟩
    · refine .inr ⟨rfl, by simpa [statusBusy] using h0, ?_⟩
      rw [if_neg (by exact h0)]
      exact ⟨_, _, _, rfl, rfl, rfl⟩
  | succ left ih =>
    rw [pollLoop]
    set s' : State := { s with latches := { s.latches with poll := some i } } with hs'
    have hc' : s'.TransportCompletes := hc
    rw [regRead_completes _ hc', Run.bind_ok]
    set rx := (s.device.respond s.params (readFrame s.params.turnaround s.params.regStatus) s.draws).bytes with hrx
    by_cases h0 : replyValue rx &&& s.params.busyMask = 0
    · refine ⟨[rx], by simp, .inl ⟨[], rx, rfl, by simp, by simp [statusBusy, h0], ?_⟩⟩
      rw [if_pos (by exact h0)]
      exact ⟨_, _, _, rfl, trivial, rfl, rfl⟩
    · have hb : statusBusy s.params rx = true := by simpa [statusBusy] using h0
      rw [if_neg (by exact h0)]
      have hc2 := State.afterPulse_completes hc' (readFrame s'.params.turnaround s'.params.regStatus)
      simp only []
      rw [emit_completes _ hc2, Run.bind_ok]
      set u : State := State.completeEvent _ _ with hu
      have hstep : ∀ es d k l, (u.sent es d k l) =
          s.sent (Transaction.events s.params (.read s.params.regStatus rx) ++ [.delay s.params.tPoll] ++ es) d k l := by
        intro es d k l
        simp [hu, State.sent, State.completeEvent, State.note, State.afterPulse, hs', Pins.csHigh, drivePins,
          Transaction.events, pulseEvents, Nat.add_comm, Nat.add_left_comm, hrx]
      have hp : u.params = s.params := rfl
      obtain ⟨polls, hl, ⟨busy, last, rfl, h1, h2, d, k, l, e, ht, e1, e2⟩ | ⟨h1, h2, d, k, l, e, e1, e2⟩⟩ :=
        ih (i + 1) (s := u) (completes_drop hc2 1)
      · refine ⟨rx :: (busy ++ [last]), by simpa using hl, .inl ⟨rx :: busy, last, rfl, ?_, h2, d, k, l, ?_, ht, e1, e2⟩⟩
        · simpa [hb, hp] using h1
        · rw [e, hstep, pollEvents_cons _ _ _ (by simp)]
          rfl
      · refine ⟨rx :: polls, by simpa using hl, .inr ⟨by simp [h1], ?_, d, k, l, ?_, e1, e2⟩⟩
        · simpa [hb, hp] using h2
        · rw [e, hstep, pollEvents_cons _ _ _ (by rintro rfl; simp at h1)]
          rfl

/-- Wait-ready on any device (R164). -/
theorem waitReady_ends (stage : Stage) (hm : 1 ≤ s.params.pollMax) (hc : s.TransportCompletes) :
    ∃ polls,
      (readyPolls s.params polls ∧ Sends anyAnswers 0 s (pollEvents s.params polls) () (waitReady stage s)) ∨
        (busyPolls s.params polls ∧ SendsThenTimesOut s (pollEvents s.params polls) stage (waitReady stage s)) := by
  obtain ⟨n, hn⟩ : ∃ n, s.params.pollMax = n + 1 := ⟨_, (Nat.sub_add_cancel hm).symm⟩
  simp only [waitReady, readyPolls, busyPolls, hn]
  obtain ⟨polls, hl, ⟨busy, last, h, h1, h2, h3⟩ | h⟩ := pollLoop_ends stage n 1 hc
  · exact ⟨polls, .inl ⟨⟨busy, last, h, hl, h1, h2⟩, h3⟩⟩
  · exact ⟨polls, .inr ⟨⟨h.1, h.2.1⟩, h.2.2⟩⟩

/-- A request whose body sends transactions and ends (R26, R88). -/
theorem serve_sends {op : Instr} {body : State → Run Unit} {es : List BusEvent} (hh : s.halted = false)
    (h : Sends P m (s.begin op) es () (body (s.begin op))) :
    ∃ d k l, serve op true body s =
        .next { s.completed op 0x00 es with pins := s.pins.csHigh, device := d, draws := k, latches := l } ∧
      l.reg = some op.regOperand ∧ l.arg = some op.argOperand := by
  obtain ⟨d, k, l, e, _, h1, h2⟩ := h
  refine ⟨d, k, l, ?_, h1, h2⟩
  rw [serve_admitted hh, e]
  simp [conclude, State.finish, State.sent, State.begin, State.completed, codeOk]

/-- A request whose body sends transactions and times out (R203). -/
theorem serve_times_out {op : Instr} {body : State → Run Unit} {es : List BusEvent} {stage : Stage}
    (hh : s.halted = false) (h : SendsThenTimesOut (s.begin op) es stage (body (s.begin op))) :
    ∃ d k l, serve op true body s =
        .next { s.completed op stage.code es with pins := s.pins.csHigh, device := d, draws := k, latches := l } ∧
      l.reg = some op.regOperand ∧ l.arg = some op.argOperand := by
  obtain ⟨d, k, l, e, h1, h2⟩ := h
  refine ⟨d, k, l, ?_, h1, h2⟩
  rw [serve_admitted hh, e]
  simp [conclude, State.raise, Error.code, State.finish, State.sent, State.begin, State.completed, hh]

end Sys2Proof.Machine
end

