-- ==== Sys2Proof/Tests/Slice0.lean ====
section
/-! SUPPORT. The model's own tests: ill-formed terms that the checks refuse, encodings written out from the spec,
vectors of 95_test_vectors.md, and for each statement with hypotheses a witness that meets them. -/

namespace Sys2Proof.Tests

open Sys2Proof Sys2Proof.Machine

/-! ## Well-formedness -/

theorem test_register_number_out_of_range : (RegOperand.number 64).wellFormed = false := by decide

theorem test_register_number_in_range : (RegOperand.number 63).wellFormed = true := by decide

theorem test_rdreg_line_refused : (AsmLine.rdreg (.number 64)).wellFormed = false := by decide

theorem test_wrreg_line_register_refused : (AsmLine.wrreg (.number 64) 0).wellFormed = false := by decide

theorem test_wrreg_line_value_refused : (AsmLine.wrreg (.named .data) (2 ^ 32)).wellFormed = false := by decide

theorem test_rdsec_line_refused : (AsmLine.rdsec (2 ^ 32)).wellFormed = false := by decide

theorem test_wrsec_line_refused : (AsmLine.wrsec (2 ^ 32)).wellFormed = false := by decide

theorem test_erase_line_refused : (AsmLine.erase (2 ^ 32)).wellFormed = false := by decide

theorem test_largest_lba_line : (AsmLine.erase (2 ^ 32 - 1)).wellFormed = true := by decide

theorem test_masks_must_be_nonzero :
    { Params.reference with busyMask := 0 }.admissible = false ∧
      { Params.reference with weMask := 0 }.admissible = false := by decide

theorem test_at_least_one_poll : { Params.reference with pollMax := 0 }.admissible = false := by decide

/-- R125 (3): a sequence that leaves HS_B low, and one with no event on CS_N, are refused. -/
theorem test_exit_sequence_must_end_high :
    { Params.reference with leaveSeq := [.pin .hsA true, .pin .csN true, .pin .hsB false] }.admissible = false ∧
      { Params.reference with leaveSeq := [.pin .hsA true, .pin .hsB true] }.admissible = false := by decide

theorem test_reference_admissible : Params.reference.admissible = true := by decide

/-! ## Encodings, from the words of R99 and V-REQ-1 written out -/

theorem test_decode_open : decodeRequest 0x000000000001 = .ok .openLink := by decide

theorem test_decode_close : decodeRequest 0x000000000002 = .ok .closeLink := by decide

theorem test_decode_enter : decodeRequest 0x000000000003 = .ok .enter := by decide

theorem test_decode_leave : decodeRequest 0x000000000004 = .ok .leave := by decide

/-- REG is bits 13:8, here 111111, and OP is 00000101. -/
theorem test_decode_rdreg : decodeRequest 0b00111111_00000101 = .ok (.rdreg 63) := by decide

/-- ARG is bits 47:16, REG bits 13:8. -/
theorem test_decode_wrreg : decodeRequest 0xFFFFFFFF1006 = .ok (.wrreg 0x10 0xFFFFFFFF) := by decide

theorem test_decode_init : decodeRequest 0x000000000007 = .ok .init := by decide

theorem test_decode_rdsec : decodeRequest 0xFFFFFFFF0008 = .ok (.rdsec 0xFFFFFFFF) := by decide

theorem test_decode_wrsec : decodeRequest 0x000000210009 = .ok (.wrsec 0x21) := by decide

theorem test_decode_erase : decodeRequest 0x00000020000A = .ok (.erase 0x20) := by decide

/-- V-FRM-1: address 63, header 0xFD. -/
theorem test_decode_spi_rd : decodeFrame [0xBF, 0xFF, 0, 0, 0, 0] = .ok (.spiRd 63) := by decide

/-- V-FRM-2: address 16, value 0x03020100, header 0x42. -/
theorem test_decode_spi_wr : decodeFrame [0x42, 0x00, 0x80, 0x40, 0xC0] = .ok (.spiWr 0x10 0x03020100) := by decide

theorem test_encode_wrreg : encode 0xFF (.wrreg 0x0C 0x00000A00) = [0x06, 0x0C, 0x00, 0x0A, 0x00, 0x00] := by decide

theorem test_encode_spi_frames :
    encode 0xFF (.spiRd 1) = [0xA0, 0xFF, 0, 0, 0, 0] ∧
      encode 0xFF (.spiWr 0x00 0x18) = [0x40, 0x18, 0x00, 0x00, 0x00] := by decide

/-- V-REQ-2: the decoder's own refusals. -/
theorem test_reserved_codes :
    decodeRequest 0x000000000000 = .error .reservedOp ∧ decodeRequest 0x00000000000B = .error .reservedOp ∧
      decodeRequest 0x0000000000FF = .error .reservedOp := by decide

theorem test_nonzero_fields :
    decodeRequest 0x000000004001 = .error .nonzeroField ∧ decodeRequest 0x000000008001 = .error .nonzeroField ∧
      decodeRequest 0x000000000101 = .error .nonzeroField ∧ decodeRequest 0x000000010001 = .error .nonzeroField ∧
      decodeRequest 0x000000000508 = .error .nonzeroField ∧
      decodeRequest 0x000000010005 = .error .nonzeroField := by decide

/-- V-FRM-4 and R95: types 0 and 3, and a length that the header does not give. -/
theorem test_frames_refused :
    decodeFrame [0x20, 0, 0, 0, 0, 0] = .error .frameType ∧ decodeFrame [0xC0, 0, 0, 0, 0] = .error .frameType ∧
      decodeFrame [0x80, 0xFF, 0, 0, 0] = .error .frameLength ∧ decodeFrame [] = .error .frameType := by decide

/-- The numbering of the opcode table: a request row and the header byte of a frame row. -/
theorem test_table_words :
    decodeTableWord 48 0x000000050008 = some (.rdsec 5) ∧ decodeTableWord 8 0x11 = some (.spiRd 0x04) ∧
      decodeTableWord 8 0xFE = some (.spiWr 0x3F 0) ∧ decodeTableWord 8 0x03 = none := by decide

/-- V-REQ-1: a line of text and its hexadecimal word. -/
theorem test_assemble :
    (assemble Params.reference "WRREG ADDRESS, 0x00000A00 ; set".toList).map requestHex =
      some "00000A000C06".toList := by decide

/-! ## Codec and geometry vectors -/

/-- V-COD-2 and V-COD-4. -/
theorem test_codec :
    rev8 0x37 = 0xEC ∧ rev8ByNibbles 0xC6 = 0x63 ∧ rev8InPlace [0x01, 0x32] 2 = [0x80, 0x4C] ∧
      rev8Copy [0x12, 0x0A] [0, 0] 2 = [0x48, 0x50] := by decide

/-- V-FRM-3. -/
theorem test_reply_value : replyValue [0x12, 0x34, 0x80, 0x40, 0xC0, 0x20] = 0x04030201 := by decide

/-- V-GEO-18 to V-GEO-21, and V-GEO-17. -/
theorem test_geometry :
    decodeGeometry none 0x008A3020 = some ⟨0x008A3020, 1, 2, 512, 0x100, 0x800, 0x1E0⟩ ∧
      decodeGeometry (some 31) 0x01020020 = none ∧
      decodeGeometry (some 32) 0x01020020 = some ⟨0x01020020, 1, 2, 512, 0x100, 0x4000, 0x1E0⟩ ∧
      decodeGeometry none 0x01FA0030 = some ⟨0x01FA0030, 1, 3, 512, 0x200, 0x800000, 0xF0⟩ ∧
      decodeGeometry none 0x00060030 = none := by decide

/-! ## States for the machine tests -/

/-- The block after reset, with the reference parameters and a device. -/
def testReset (d : Device) : State := State.resetWith Params.reference d

/-- A device that answers zero bytes. -/
def zeros : Device := .oracle (List.replicate 1700 0)

/-- A device that answers 0xFF bytes. -/
def ones : Device := .oracle (List.replicate 1700 0xFF)

/-- The reference device of V-INIT-1. -/
def testRdm : Rdm := Rdm.atReset Params.reference 0x00000010 0x00000000 0 0xFF

/-- The geometry of raw word 0x00000010 (V-GEO-3). -/
def testGeometry : FlashGeometry := ⟨0x00000010, 0, 1, 512, 0x20, 0x400, 0x3E0⟩

/-- The link open after reset. -/
def testLinked (d : Device) : State :=
  { testReset d with
    linkOpen := true
    pins := ⟨⟨.output, some true⟩, ⟨.output, some true⟩, ⟨.output, some true⟩⟩ }

/-- A full buffer. -/
def testSB : Memory := (List.range sectorBytes).map fun j => (j, BitVec.ofNat 8 j)

/-- A session with a full buffer. -/
def testSession (d : Device) : State :=
  { testLinked d with initialized := true, geometry := some testGeometry, sb := testSB }

/-- The next state of an outcome, if it is one. -/
def nextOf (o : Host.Outcome State Fault Refusal) : Option State :=
  match o with
  | .next s => some s
  | .fault _ => none
  | .refused _ => none

/-- An outcome that is a next state with the result `c`. -/
theorem next_of_result {o : Host.Outcome State Fault Refusal} {c : Byte}
    (h : (nextOf o).map (fun t => t.result) = some (some c)) : ∃ t, o = .next t ∧ t.result = some c := by
  cases o with
  | next t => exact ⟨t, rfl, by simpa [nextOf] using h⟩
  | fault f => cases h
  | refused r => cases h

theorem testSB_full : sbFull testSB = true := sbFull_map_range _

theorem testSB_wf : sbWf testSB = true := sbWf_map_range _

theorem testSession_sb (d : Device) : (testSession d).sb = testSB := by rw [testSession]

/-- A sector write with the full buffer is admitted. -/
theorem exec_wrsec_testSession (lba : Word) (d : Device) :
    exec (.wrsec lba) (testSession d) = .next (conclude (wrsecBody lba ((testSession d).begin (.wrsec lba)))) := by
  simp only [exec, execWrsec, testSession_sb, testSB_full, show (testSession d).initialized = true from rfl, Bool.and_self]
  exact serve_admitted rfl

/-! ## One step of each instruction -/

/-- V-LNK-1: seven events, the link open. -/
theorem test_open :
    (nextOf (exec .openLink (testReset zeros))).map (fun t => (t.linkOpen, t.trace.length, t.result)) =
      some (true, 7, some 0x00) := by decide +kernel

/-- V-LNK-3: four events, the lines still at 1. -/
theorem test_close :
    (nextOf (exec .closeLink (testSession zeros))).map (fun t => (t.linkOpen, t.initialized, t.trace, t.pins.csN)) =
      some (false, false, [.chanClose, .pin .hsA true, .pin .hsB true, .pin .csN true], ⟨.output, some true⟩) := by
  decide +kernel

/-- V-LNK-4: CS_N is at 0 after the ninth event. -/
theorem test_enter :
    (nextOf (exec .enter (testLinked zeros))).map (fun t => (t.trace.length, t.pins.csN.level, t.pins.hsA.level)) =
      some (9, some false, some true) := by decide +kernel

/-- V-LNK-8: the session ends, the link stays open. -/
theorem test_leave :
    (nextOf (exec .leave (testSession zeros))).map (fun t => (t.trace.length, t.linkOpen, t.initialized)) =
      some (9, true, false) := by decide +kernel

/-- V-FRM-3: the reply's first two bytes are ignored, and the others are reversed. -/
theorem test_rdreg :
    (nextOf (exec (.rdreg 0x00) (testLinked (.oracle [0x12, 0x34, 0x80, 0x40, 0xC0, 0x20])))).map
        (fun t => (t.value, t.device)) =
      some (some 0x04030201, .oracle []) := by decide +kernel

/-- V-REQ-2: RDREG with the link closed is refused. -/
theorem test_rdreg_link_closed :
    (nextOf (exec (.rdreg 0x00) (testReset zeros))).map (fun t => (t.result, t.refused, t.refusal, t.trace)) =
      some (some 0xF0, true, some .precondition, []) := by decide +kernel

/-- V-LNK-6: the frame of WRREG, and VALUE unchanged. -/
theorem test_wrreg :
    (nextOf (exec (.wrreg 0x0C 0x00000A00) (testLinked zeros))).map (fun t => (t.latches.tx, t.value)) =
      some (some [0x4C, 0x00, 0x50, 0x00, 0x00], none) := by decide +kernel

/-- V-INIT-1: the reference device, from reset. -/
theorem test_init :
    (nextOf (exec .init (testReset (.rdm testRdm)))).map (fun t => (t.result, t.value, t.geometry, t.trace.length)) =
      some (some 0x00, some 0x00000010, some testGeometry, 24) := by decide +kernel

/-- R162: a configuration word that does not decode. -/
theorem test_init_invalid :
    (nextOf (exec .init (testReset zeros))).map (fun t => (t.result, t.value, t.initialized, t.linkOpen)) =
      some (some 0x10, some 0, false, true) := by decide +kernel

/-- R168, V-REQ-2: a sector read without a session is refused. -/
theorem test_rdsec_no_session :
    (nextOf (exec (.rdsec 5) (testLinked zeros))).map (fun t => (t.result, t.refusal)) =
      some (some 0xF0, some .precondition) := by decide +kernel

/-- R169, S-7: the first transactions of a sector read that times out; the address is `5 * 512`. -/
theorem test_rdsec_timeout :
    (nextOf (exec (.rdsec 5) (testSession ones))).map (fun t => (t.result, t.trace.length, t.trace[10]?)) =
      some (some 0x01, 30, some (.xfer [0x4C, 0x00, 0x50, 0x00, 0x00] (List.replicate 5 0xFF))) := by decide +kernel

/-- A device that answers `n` zero bytes, then `m` bytes 0xFF, then zeros. -/
def zerosOnes (n m : Nat) : Device :=
  .oracle (List.replicate n 0 ++ (List.replicate m 0xFF ++ List.replicate 1700 0))

/-- V-RD-1: RDSEC ends OK when the device is busy at two polls, after 21 reply bytes, and ready at the third. -/
theorem test_rdsec_third_poll :
    (nextOf (exec (.rdsec 5) (testSession (zerosOnes 21 12)))).map (fun t => t.result) =
      some (some 0x00) := by decide +kernel

/-- R174: a sector write needs every byte of SB. -/
theorem test_wrsec_needs_buffer :
    (nextOf (exec (.wrsec 0x20) { testSession zeros with sb := [(0, 0)] })).map (fun t => (t.result, t.trace)) =
      some (some 0xF0, []) := by decide +kernel

/-- R175, V-WRS-3: the erase of a sector write at a first sector times out. -/
theorem test_wrsec_erase_timeout :
    (nextOf (exec (.wrsec 0x20) (testSession ones))).map
        (fun t => (t.result, t.trace.length)) =
      some (some 0x02, 46) := by
  rw [exec_wrsec_testSession]
  decide +kernel

/-- R172: the write-enable bit is set in the value read, and the execute command is last before the poll. -/
theorem test_erase :
    (nextOf (exec (.erase 0x20) (testSession zeros))).map (fun t => (t.result, t.trace[14]?, t.trace[30]?)) =
      some (some 0x00, some (.xfer [0x40, 0x10, 0, 0, 0] (List.replicate 5 0)),
        some (.xfer [0x44, 0xA0, 0, 0, 0] (List.replicate 5 0))) := by decide +kernel

/-- R127: a read frame by itself leaves VALUE and RESULT. -/
theorem test_spi_rd :
    (nextOf (exec (.spiRd 0x04) (testLinked zeros))).map (fun t => (t.latches.rx, t.value, t.result)) =
      some (some (List.replicate 6 0), none, none) := by decide +kernel

/-- R130: a write frame by itself, five bytes each way. -/
theorem test_spi_wr :
    (nextOf (exec (.spiWr 0x08 0xAA) (testLinked zeros))).map (fun t => (t.latches.tx, t.latches.rx)) =
      some (some [0x44, 0x55, 0, 0, 0], some (List.replicate 5 0)) := by decide +kernel

/-- R232: before the first OPEN a frame drives no line. -/
theorem test_spi_wr_link_closed :
    (nextOf (exec (.spiWr 0x08 0xAA) (testReset zeros))).map (fun t => (t.refusal, t.trace, t.pins.csN)) =
      some (some .precondition, [], ⟨.unconfigured, none⟩) := by decide +kernel

/-- R32: TX holds the frame being sent while the transfer hangs. -/
theorem test_tx_while_hung :
    (nextOf (exec (.rdreg 0x04) { testLinked zeros with answers := [.completes, .completes, .never] })).map
        (fun t => (t.latches.tx, t.latches.rx, t.stepIdx)) =
      some (some [0x88, 0xFF, 0, 0, 0, 0], none, 2) := by decide +kernel

/-- R207, R118: a transport failure at the fifth event of OPEN; the lines keep the events before. -/
theorem test_transport_failure :
    (nextOf (exec .openLink { testReset zeros with answers := List.replicate 4 .completes ++ [.fails] })).map
        (fun t => (t.result, t.halted, t.linkOpen, t.trace.length, t.pins.hsA, t.pins.csN)) =
      some (some 0x20, true, false, 5, ⟨.output, some true⟩, ⟨.output, none⟩) := by decide +kernel

/-- R207: after a failed delay of ENTER the levels of all three lines are unknown. -/
theorem test_levels_after_failure :
    (nextOf (exec .enter { testLinked zeros with answers := [.completes, .fails] })).map
        (fun t => (t.pins.hsA, t.pins.hsB, t.pins.csN)) =
      some (⟨.output, some (Config.freeBool 0)⟩, ⟨.output, some (Config.freeBool 1)⟩,
        ⟨.output, some (Config.freeBool 2)⟩) := rfl

/-- V-REQ-2: Halted comes before ReservedOp. -/
theorem test_halted_first :
    (nextOf (step ({ testReset zeros with halted := true }.withFetchWord 48 0x0B))).map (fun t => t.refusal) =
      some (some .halted) := by decide +kernel

/-- U16: an action that never completes leaves the request running, and the host's next request has no move. -/
theorem test_never_completes :
    (nextOf (exec .openLink { testReset zeros with answers := [.completes, .never] })).map
        (fun t => (t.seq, t.stepIdx, nextOf (step (t.withFetchWord 48 1)))) =
      some (.run .openLink, 1, none) := by decide +kernel

/-! ## Witnesses: for each statement with hypotheses, a case that meets them -/

/-- A transport with nothing pending completes every action. -/
theorem test_empty_transport_completes (s : State) (h : s.answers = []) : s.TransportCompletes := by
  intro a ha
  rw [h] at ha
  cases ha

theorem test_witness_RequestWordHasOneMeaning : decodeRequest 0x000000003F05 = .ok (.rdreg 63) := by decide

theorem test_witness_UndecodableWords :
    ((opField 0x00000000000A).toNat = 10 ∧ (opField 0x00000000000B).toNat = 11) ∧
      (regField 0x000000010108 ≠ 0 ∧ mbzField 0x000000008001 ≠ 0 ∧ argField 0x000000010005 ≠ 0) := by decide

theorem test_witness_BufferForms : ([0x12, 0x0A] : List Byte).length = ([0, 0] : List Byte).length := by decide

/-- Each cell of the table has a word, V-GEO-1 to V-GEO-24. -/
theorem test_witness_GeometryByCell :
    (controllerTypeOf 0x00000010 = 0 ∧ blockTypeOf 0x00000010 = 1) ∧
    (controllerTypeOf 0x00000020 = 0 ∧ blockTypeOf 0x00000020 = 2) ∧
    (controllerTypeOf 0x00000030 = 0 ∧ blockTypeOf 0x00000030 = 3) ∧
    (controllerTypeOf 0x00020010 = 1 ∧ blockTypeOf 0x00020010 = 1) ∧
    (controllerTypeOf 0x00040010 = 2 ∧ blockTypeOf 0x00040010 = 1) ∧
    (controllerTypeOf 0x01FA0020 = 1 ∧ blockTypeOf 0x01FA0020 = 2 ∧ extraOf 0x01FA0020 = 18) ∧
    (controllerTypeOf 0x00040030 = 2 ∧ blockTypeOf 0x00040030 = 3 ∧ extraOf 0x00040030 = 0) ∧
    (controllerTypeOf 0x00060030 = 3 ∧ blockTypeOf 0x00020000 = 0) := by decide

/-- The shift limit refuses at 31 and not at 32 (V-GEO-19). -/
theorem test_witness_GeometryByCell_limit :
    (∃ n, some 31 = some n ∧ n ≤ extraOf 0x01020020 + 23) ∧
      ¬∃ n, some 32 = some n ∧ n ≤ extraOf 0x01020020 + 23 := by
  constructor
  · exact ⟨31, rfl, by decide⟩
  · rintro ⟨n, h, hn⟩
    cases h
    revert hn
    decide

theorem test_witness_GeometryRanges :
    decodeGeometry none 0x00000030 = some ⟨0x00000030, 0, 3, 512, 0x20, 0x1000, 0xF80⟩ ∧
    decodeGeometry none 0x00040010 = some ⟨0x00040010, 2, 1, 512, 0x20, 0x1000, 0xF80⟩ ∧
    decodeGeometry none 0x01FA0020 = some ⟨0x01FA0020, 1, 2, 512, 0x100, 2 ^ 24, 0x1E0⟩ ∧
    decodeGeometry none 0x00040030 = some ⟨0x00040030, 2, 3, 512, 0x200, 2 ^ 5, 0xF0⟩ := by decide

theorem test_witness_GeometryIgnoresOtherBits :
    (0x00000010 : Word) ≠ 0 ∧ (0xFFF9FFDF : Word) ≠ 0 ∧
    (0x00000010 : Word).extractLsb' 4 2 = (0xFFF9FFDF : Word).extractLsb' 4 2 ∧
    (0x00000010 : Word).extractLsb' 17 2 = (0xFFF9FFDF : Word).extractLsb' 17 2 ∧
    (0x00000010 : Word).extractLsb' 17 2 ∉ [1#2, 2#2] ∧
    (0x00020020 : Word).extractLsb' 4 2 = (0x01FA0020 : Word).extractLsb' 4 2 ∧
    (0x00020020 : Word).extractLsb' 17 2 = (0x01FA0020 : Word).extractLsb' 17 2 ∧
    (0x00020020 : Word).extractLsb' 17 2 ∈ [1#2, 2#2] ∧ (0x00020020 : Word).extractLsb' 4 2 ∈ [2#2, 3#2] ∧
    decodeGeometry none 0x00020020 = some ⟨0x00020020, 1, 2, 512, 0x100, 2 ^ 6, 0x1E0⟩ := by decide

theorem test_witness_LeaveSequences :
    ∃ ps : Pins, ps.hsA.level = some true ∧ ps.hsB.level = some true :=
  ⟨⟨⟨.output, some true⟩, ⟨.output, some true⟩, ⟨.output, some false⟩⟩, rfl, rfl⟩

/-- Each input of the host, on an idle block. -/
def testInput (i : Input) : State := { testReset zeros with inputs := [i] }

theorem test_witness_StepRunsDecodedInstruction :
    (testReset zeros).seq = .idle ∧
    ((testInput (.request 1)).inputs = [.request 1] ∧ decodeRequest 1 = .ok .openLink) ∧
    ((testInput (.frame [0x84, 0xFF, 0, 0, 0, 0])).inputs = [.frame [0x84, 0xFF, 0, 0, 0, 0]] ∧
      decodeFrame [0x84, 0xFF, 0, 0, 0, 0] = .ok (.spiRd 0x08)) :=
  ⟨rfl, ⟨rfl, by decide⟩, ⟨rfl, by decide⟩⟩

theorem test_witness_StepRefusesUndecodable :
    (testReset zeros).seq = .idle ∧ decodeRequest 0x0B = .error .reservedOp ∧
    decodeRequest 0x4001 = .error .nonzeroField ∧ decodeFrame [0x20, 0, 0, 0, 0, 0] = .error .frameType ∧
    decodeFrame [0x80, 0, 0, 0, 0] = .error .frameLength := ⟨rfl, by decide, by decide, by decide, by decide⟩

theorem test_witness_UnadmittedIsRefused :
    { testReset zeros with halted := true }.halted = true ∧ ready (.rdreg 0) (testReset zeros) = false ∧
      ready (.wrsec 0) { testSession zeros with sb := [] } = false ∧ ready (.erase 0) (testLinked zeros) = false :=
  ⟨rfl, rfl, by decide +kernel, rfl⟩

theorem test_witness_OpenCompletes :
    (testReset zeros).halted = false ∧ (testReset zeros).TransportCompletes ∧ (testReset zeros).linkOpen = false ∧
      (testLinked zeros).halted = false ∧ (testLinked zeros).TransportCompletes ∧ (testLinked zeros).linkOpen = true :=
  ⟨rfl, test_empty_transport_completes _ rfl, rfl, rfl, test_empty_transport_completes _ rfl, rfl⟩

/-- A transport with answers pending that all complete is one too. -/
theorem test_witness_TransportCompletes :
    { testLinked zeros with answers := [.completes, .completes] }.TransportCompletes := by
  intro a ha
  simpa using ha

/-- CLOSE, ENTER, RDREG and WRREG. -/
theorem test_witness_CloseCompletes :
    (testLinked zeros).halted = false ∧ (testLinked zeros).linkOpen = true ∧ (testLinked zeros).TransportCompletes :=
  ⟨rfl, rfl, test_empty_transport_completes _ rfl⟩

theorem test_witness_EnterCompletes :
    (testSession ones).halted = false ∧ (testSession ones).linkOpen = true ∧ (testSession ones).TransportCompletes :=
  ⟨rfl, rfl, test_empty_transport_completes _ rfl⟩

theorem test_witness_LeaveCompletes :
    (testLinked zeros).halted = false ∧ (testLinked zeros).linkOpen = true ∧ (testLinked zeros).TransportCompletes ∧
      leaveSeqAdmissible (testLinked zeros).params.leaveSeq = true :=
  ⟨rfl, rfl, test_empty_transport_completes _ rfl, by decide⟩

theorem test_witness_RdregCompletes :
    (testLinked (.rdm testRdm)).halted = false ∧ (testLinked (.rdm testRdm)).linkOpen = true ∧
      (testLinked (.rdm testRdm)).TransportCompletes := ⟨rfl, rfl, test_empty_transport_completes _ rfl⟩

theorem test_witness_WrregCompletes :
    (testLinked (.rdm testRdm)).halted = false ∧ (testLinked (.rdm testRdm)).linkOpen = true ∧
      (testLinked (.rdm testRdm)).TransportCompletes := ⟨rfl, rfl, test_empty_transport_completes _ rfl⟩

theorem test_witness_ReadFrameCompletes :
    (testLinked zeros).halted = false ∧ (testLinked zeros).linkOpen = true ∧ (testLinked zeros).TransportCompletes :=
  ⟨rfl, rfl, test_empty_transport_completes _ rfl⟩

theorem test_witness_WriteFrameCompletes :
    (testLinked (.rdm testRdm)).halted = false ∧ (testLinked (.rdm testRdm)).linkOpen = true ∧
      (testLinked (.rdm testRdm)).TransportCompletes :=
  ⟨rfl, rfl, test_empty_transport_completes _ rfl⟩

theorem test_witness_InitWhenInitialized :
    (testSession zeros).halted = false ∧ (testSession zeros).initialized = true ∧
      (testSession zeros).geometry = some testGeometry := ⟨rfl, rfl, rfl⟩

/-- What INIT's second configuration read gives from state `s`. -/
def testSecondRead (s : State) : Word :=
  let tx := readFrame s.params.turnaround s.params.regConfig
  let r1 := s.device.entered.respond s.params tx s.draws
  replyValue (r1.device.respond s.params tx r1.draws).bytes

/-- The reference device, with the link closed and with the link open. -/
theorem test_witness_InitCompletes :
    ((testReset (.rdm testRdm)).halted = false ∧ (testReset (.rdm testRdm)).initialized = false ∧
      (testReset (.rdm testRdm)).TransportCompletes ∧
      decodeGeometry none (testSecondRead (testReset (.rdm testRdm))) = some testGeometry) ∧
    (testLinked (.rdm testRdm)).linkOpen = true ∧
      decodeGeometry none (testSecondRead (testLinked (.rdm testRdm))) = some testGeometry :=
  ⟨⟨rfl, rfl, test_empty_transport_completes _ rfl, by decide +kernel⟩, rfl, by decide +kernel⟩

theorem test_witness_InitInvalidGeometry :
    (testReset zeros).halted = false ∧ (testReset zeros).initialized = false ∧ (testReset zeros).TransportCompletes ∧
      decodeGeometry none (testSecondRead (testReset zeros)) = none :=
  ⟨rfl, rfl, test_empty_transport_completes _ rfl, by decide +kernel⟩

theorem test_witness_MinimalBoot : testSecondRead (testReset (.rdm testRdm)) = 0x00000010 := by decide +kernel

theorem test_witness_WaitReadyPolls :
    (testLinked ones).TransportCompletes ∧ 1 ≤ (testLinked ones).params.pollMax :=
  ⟨test_empty_transport_completes _ rfl, by decide⟩

theorem test_witness_RdsecCompletes :
    (testSession zeros).halted = false ∧ (testSession zeros).initialized = true ∧
      sbWf (testSession zeros).sb = true ∧ (testSession zeros).TransportCompletes ∧
      1 ≤ (testSession zeros).params.pollMax ∧
      (testSession zeros).device.readyFor (testSession zeros).params 270 (testSession zeros).draws ∧
      ∃ t, exec (.rdsec 5) (testSession (zerosOnes 21 12)) = .next t ∧ t.result = some 0x00 :=
  ⟨rfl, rfl, by rw [testSession_sb]; exact testSB_wf, test_empty_transport_completes _ rfl, by decide,
    readyFor_zeros _ _ _ _ (by decide), next_of_result (by decide +kernel)⟩

theorem test_busyMask_nonzero : (testSession ones).params.busyMask ≠ 0 := by decide

theorem test_witness_RdsecTimesOut :
    (testSession ones).halted = false ∧ (testSession ones).initialized = true ∧
      (testSession ones).TransportCompletes ∧ 1 ≤ (testSession ones).params.pollMax ∧
      (testSession ones).device.busyFor (testSession ones).params (4 + (testSession ones).params.pollMax)
        (testSession ones).draws ∧
      ∃ t, exec (.rdsec 5) (testSession ones) = .next t ∧ t.result = some 0x01 :=
  ⟨rfl, rfl, test_empty_transport_completes _ rfl, by decide, busyFor_ones _ test_busyMask_nonzero _ _ _ (by decide),
    next_of_result (by decide +kernel)⟩

theorem test_witness_EraseCompletes :
    (testSession zeros).halted = false ∧ (testSession zeros).initialized = true ∧
      (testSession zeros).TransportCompletes ∧ 1 ≤ (testSession zeros).params.pollMax ∧
      (testSession zeros).device.readyFor (testSession zeros).params 9 (testSession zeros).draws ∧
      ∃ t, exec (.erase 5) (testSession (zerosOnes 42 12)) = .next t ∧ t.result = some 0x00 :=
  ⟨rfl, rfl, test_empty_transport_completes _ rfl, by decide, readyFor_zeros _ _ _ _ (by decide),
    next_of_result (by decide +kernel)⟩

theorem test_witness_EraseTimesOut :
    (testSession ones).halted = false ∧ (testSession ones).initialized = true ∧
      (testSession ones).TransportCompletes ∧ 1 ≤ (testSession ones).params.pollMax ∧
      (testSession ones).device.busyFor (testSession ones).params (8 + (testSession ones).params.pollMax)
        (testSession ones).draws ∧
      ∃ t, exec (.erase 5) (testSession ones) = .next t ∧ t.result = some 0x02 :=
  ⟨rfl, rfl, test_empty_transport_completes _ rfl, by decide, busyFor_ones _ test_busyMask_nonzero _ _ _ (by decide),
    next_of_result (by decide +kernel)⟩

/-- A first sector (0x20) and one that is not (0x21). -/
theorem test_first_sectors :
    (0x20 : Word).toNat % testGeometry.pagesCount = 0 ∧ (0x21 : Word).toNat % testGeometry.pagesCount ≠ 0 := by decide

theorem test_witness_WrsecCompletes :
    (testSession zeros).halted = false ∧ (testSession zeros).initialized = true ∧
      (testSession zeros).geometry = some testGeometry ∧ sbFull (testSession zeros).sb = true ∧
      (testSession zeros).TransportCompletes ∧ 1 ≤ (testSession zeros).params.pollMax ∧
      (testSession zeros).device.readyFor (testSession zeros).params 283 (testSession zeros).draws :=
  ⟨rfl, rfl, rfl, by rw [testSession_sb]; exact testSB_full, test_empty_transport_completes _ rfl, by decide,
    readyFor_zeros _ _ _ _ (by decide)⟩

theorem test_witness_WrsecTimesOut :
    (testSession ones).halted = false ∧ (testSession ones).initialized = true ∧
      (testSession ones).geometry = some testGeometry ∧ sbFull (testSession ones).sb = true ∧
      (testSession ones).TransportCompletes ∧ 1 ≤ (testSession ones).params.pollMax ∧
      (testSession ones).device.busyFor (testSession ones).params (267 + (testSession ones).params.pollMax)
        (testSession ones).draws :=
  ⟨rfl, rfl, rfl, by rw [testSession_sb]; exact testSB_full, test_empty_transport_completes _ rfl, by decide,
    busyFor_ones _ test_busyMask_nonzero _ _ _ (by decide)⟩

/-- The state a sector write leaves. -/
def testWritten (lba : Word) (d : Device) : State := conclude (wrsecBody lba ((testSession d).begin (.wrsec lba)))

/-- V-WRS-3 to V-WRS-5: a device busy at the polls of one stage, and the stage's code. -/
theorem test_witness_WrsecTimesOut_stages :
    (testWritten 0x21 (zerosOnes 1336 18)).result = some 0x03 ∧
      (testWritten 0x21 (zerosOnes 1347 18)).result = some 0x04 ∧
      (testWritten 0x21 (zerosOnes 1368 18)).result = some 0x05 :=
  ⟨by decide +kernel, by decide +kernel, by decide +kernel⟩

/-- A write-data timeout after an erase that was ready. -/
theorem test_witness_WrsecTimesOut_after_erase :
    (testWritten 0x20 (zerosOnes 1384 18)).result = some 0x03 := by decide +kernel

theorem test_witness_EraseCount :
    (testSession zeros).halted = false ∧ (testSession zeros).initialized = true ∧
      (testSession zeros).geometry = some testGeometry ∧ sbFull (testSession zeros).sb = true ∧
      (testSession zeros).TransportCompletes ∧ distinctRegisters (testSession zeros).params = true ∧
      distinctCommands (testSession zeros).params = true ∧
      (exec (.wrsec 0x20) (testSession zeros) = .next (testWritten 0x20 zeros) ∧
        (testWritten 0x20 zeros).result = some 0x00) ∧
      (exec (.wrsec 0x21) (testSession zeros) = .next (testWritten 0x21 zeros) ∧
        (testWritten 0x21 zeros).result = some 0x00) :=
  ⟨rfl, rfl, rfl, by rw [testSession_sb]; exact testSB_full, test_empty_transport_completes _ rfl, by decide, by decide,
    ⟨exec_wrsec_testSession _ _, by decide +kernel⟩, ⟨exec_wrsec_testSession _ _, by decide +kernel⟩⟩

/-- The invariant at a concrete reset state, and in a session. -/
theorem testReset_inv : (testReset zeros).Inv where
  session := rfl
  initializedOpen h := by cases h
  openOutputs h := by cases h
  levelsDriven l h := by cases l <;> exact absurd rfl h
  geometryLegal g h := by cases h
  sbForm := rfl
  resultLegal r h := by cases h
  idleStep _ := rfl
  runningStep h := absurd rfl h
  paramsAdmissible := by decide
  deviceForm := rfl

theorem testSession_inv : (testSession zeros).Inv where
  session := rfl
  initializedOpen _ := rfl
  openOutputs _ := ⟨rfl, rfl, rfl⟩
  levelsDriven l _ := by cases l <;> rfl
  geometryLegal g h := by
    obtain rfl : testGeometry = g := Option.some.inj h
    decide
  sbForm := by rw [testSession_sb]; exact testSB_wf
  resultLegal r h := absurd (show none = some r from h) (by simp)
  idleStep _ := rfl
  runningStep h := absurd rfl h
  paramsAdmissible := by decide
  deviceForm := rfl

theorem test_witness_LbaWraps :
    (∃ t, exec (.rdsec 1) (testSession zeros) = .next t) ∧
      (∃ u, exec (.rdsec (1 + ((511 : Word) <<< 23))) (testSession zeros) = .next u) ∧
      (∃ t, exec (.erase 1) (testSession zeros) = .next t) ∧
      (∃ u, exec (.erase (1 + ((511 : Word) <<< 23))) (testSession zeros) = .next u) ∧
      (testSession zeros).Inv ∧ (∃ t, exec (.wrsec 1) (testSession zeros) = .next t) ∧
      (∃ u, exec (.wrsec (1 + ((511 : Word) <<< 23))) (testSession zeros) = .next u) :=
  ⟨⟨_, rfl⟩, ⟨_, rfl⟩, ⟨_, rfl⟩, ⟨_, rfl⟩, testSession_inv, ⟨_, exec_wrsec_testSession _ _⟩,
    ⟨_, exec_wrsec_testSession _ _⟩⟩

theorem test_witness_DeviceAnswersEveryTransfer :
    (testLinked ones).halted = false ∧ ready (.rdreg 4) (testLinked ones) = true ∧
      (testLinked ones).TransportCompletes ∧ Instr.rdreg 4 ≠ .enter ∧ Instr.rdreg 4 ≠ .leave ∧
      Instr.rdreg 4 ≠ .init ∧ Instr.rdreg 4 ≠ .closeLink ∧ ∃ t, exec (.rdreg 4) (testLinked ones) = .next t :=
  ⟨rfl, rfl, test_empty_transport_completes _ rfl, by decide, by decide, by decide, by decide, ⟨_, rfl⟩⟩

/-- A request, and a frame by itself. -/
theorem test_witness_ResultCodesOfRequests :
    (∃ t, exec (.rdreg 4) (testLinked ones) = .next t ∧ t.seq = .idle) ∧
      (∃ t, exec (.spiWr 4 1) (testLinked ones) = .next t ∧ t.seq = .idle) ∧
      (testLinked ones).NoReset ∧ (testLinked ones).seq = .idle ∧ (Instr.rdreg 4).port = .request ∧ (Instr.spiWr 4 1).port = .link :=
  ⟨⟨_, rfl, by decide +kernel⟩, ⟨_, rfl, by decide +kernel⟩, List.not_mem_nil, rfl, rfl, rfl⟩

/-- A refusal sets REFUSED, and a failure sets HALTED. -/
theorem test_witness_StickyFlags :
    (∃ t, exec .closeLink (testReset zeros) = .next t ∧ (testReset zeros).refused = false ∧ t.refused = true) ∧
      (∃ t, exec .openLink { testReset zeros with answers := [.fails] } = .next t ∧
        { testReset zeros with answers := [.fails] }.NoReset ∧ (testReset zeros).halted = false ∧ t.halted = true) ∧
      (testReset zeros).NoReset :=
  ⟨⟨_, rfl, rfl, by decide +kernel⟩, ⟨_, rfl, by decide, rfl, by decide +kernel⟩, List.not_mem_nil⟩

theorem test_witness_CompletingTransportNeverFails :
    (∃ t, exec .enter (testLinked zeros) = .next t) ∧ (testLinked zeros).TransportCompletes ∧
      (testLinked zeros).result ≠ some 0x20 := ⟨⟨_, rfl⟩, test_empty_transport_completes _ rfl, by decide⟩

/-- WRREG is none of RDREG, INIT and RDSEC. -/
theorem test_witness_FrameOfOutputs :
    (∃ t, exec (.wrreg 4 1) (testLinked zeros) = .next t) ∧ (testLinked zeros).NoReset ∧
      (∀ a, Instr.wrreg 4 1 ≠ .rdreg a) ∧ Instr.wrreg 4 1 ≠ .init ∧ (∀ lba, Instr.wrreg 4 1 ≠ .rdsec lba) :=
  ⟨⟨_, rfl⟩, List.not_mem_nil, by simp, by simp, by simp⟩

theorem test_witness_FrameOfSession :
    (∃ t, exec (.erase 0) (testSession zeros) = .next t) ∧ (testSession zeros).NoReset ∧
      Instr.erase 0 ≠ .init ∧ Instr.erase 0 ≠ .closeLink ∧ Instr.erase 0 ≠ .leave ∧ Instr.erase 0 ≠ .openLink :=
  ⟨⟨_, rfl⟩, List.not_mem_nil, by simp, by simp, by simp, by simp⟩

theorem test_witness_FrameOfLines :
    (∃ t, exec (.rdreg 0) (testSession zeros) = .next t ∧ t.halted = (testSession zeros).halted) ∧
      (testSession zeros).NoReset ∧ Instr.rdreg 0 ≠ .openLink ∧ Instr.rdreg 0 ≠ .init ∧ Instr.rdreg 0 ≠ .closeLink ∧
      Instr.rdreg 0 ≠ .enter ∧ Instr.rdreg 0 ≠ .leave :=
  ⟨⟨_, rfl, rfl⟩, List.not_mem_nil, by simp, by simp, by simp, by simp, by simp⟩

theorem test_witness_NoTransferWhileClosed :
    (testReset zeros).Inv ∧ (testReset zeros).linkOpen = false ∧ Instr.spiRd 0 ≠ .init ∧
      Instr.spiRd 0 ≠ .openLink ∧ ∃ t, exec (.spiRd 0) (testReset zeros) = .next t :=
  ⟨testReset_inv, rfl, by simp, by simp, ⟨_, rfl⟩⟩

/-- The first and the last event of OPEN, with the event there, and the events of INIT on both sides of OPEN's last. -/
theorem test_witness_CutRequestEmitsPrefix :
    (testReset zeros).halted = false ∧ ready .openLink (testReset zeros) = true ∧
      (testReset zeros).linkOpen = false ∧
      (∃ t, exec .openLink { testReset zeros with answers := [] } = .next t ∧ 0 < t.trace.length ∧
        6 < t.trace.length ∧ t.trace[0]? = some (.pinDir .hsA) ∧ (BusEvent.pinDir .hsA).line ≠ some .csN) ∧
      ready .init (testReset zeros) = true ∧
      ∃ t, exec .init { testReset zeros with answers := [] } = .next t ∧ 6 < t.trace.length ∧ 7 < t.trace.length :=
  ⟨rfl, rfl, rfl, ⟨_, rfl, by decide +kernel, by decide +kernel, by decide +kernel, by decide⟩, rfl, _, rfl,
    by decide +kernel, by decide +kernel⟩

theorem test_witness_TraceBounds :
    1 ≤ (testSession ones).params.pollMax ∧ ∃ t, exec (.erase 1) (testSession ones) = .next t :=
  ⟨by decide, _, rfl⟩

theorem test_witness_ChipSelectReleased :
    (testLinked zeros).TransportCompletes ∧
      ∃ t, exec (.rdreg 0) (testLinked zeros) = .next t ∧ transfersOf t.trace ≠ [] :=
  ⟨test_empty_transport_completes _ rfl, _, rfl, by decide +kernel⟩

theorem test_witness_InvariantAtReset :
    Params.reference.admissible = true ∧ (Device.rdm testRdm).wf Params.reference = true :=
  ⟨by decide, Rdm.wf_atReset _ _ _ _ _⟩

theorem test_witness_StepKeepsInvariant :
    (testReset zeros).Inv ∧ ∃ t, step (testReset zeros) = .next t := ⟨testReset_inv, _, rfl⟩

theorem test_witness_ResetInput : { testSession zeros with inputs := [.rst] }.inputs = .rst :: [] := rfl

/-- A load that ends at the last byte of SB. -/
theorem test_witness_HostLoadsAndReadsSB :
    (testReset zeros).seq = .idle ∧ sbWf (testReset zeros).sb = true ∧ 526 + ([1, 2] : List Byte).length ≤ 528 ∧
      { testReset zeros with inputs := [.loadSB 526 [1, 2], .readSB 526 2] }.inputs =
        .loadSB 526 [1, 2] :: .readSB 526 ([1, 2] : List Byte).length :: [] :=
  ⟨rfl, rfl, by decide, rfl⟩

theorem test_witness_ReadsWithoutValueFault :
    ((testInput (.readSB 527 1)).seq = .idle ∧ (testInput (.readSB 527 1)).inputs = .readSB 527 1 :: [] ∧
      527 + 1 ≤ 528 ∧ 527 < 527 + 1 ∧ (testInput (.readSB 527 1)).sb.read 527 = none) ∧
    ((testInput (.readSB 527 2)).inputs = .readSB 527 2 :: [] ∧ 528 < 527 + 2) ∧
    ((testInput (.loadSB 528 [0])).inputs = .loadSB 528 [0] :: [] ∧ 528 < 528 + ([0] : List Byte).length) ∧
    ((testInput .readResult).inputs = .readResult :: [] ∧ (testInput .readResult).result = none) ∧
    ((testInput .readValue).inputs = .readValue :: [] ∧ (testInput .readValue).value = none) ∧
    ((testInput .readGeometry).inputs = .readGeometry :: [] ∧ (testInput .readGeometry).initialized = false) :=
  ⟨⟨rfl, rfl, by decide, by decide, rfl⟩, ⟨rfl, by decide⟩, ⟨rfl, by decide⟩, ⟨rfl, rfl⟩, ⟨rfl, rfl⟩, ⟨rfl, rfl⟩⟩

/-- A session with every output holding a value, and one input. -/
def testOutputs (i : Input) : State :=
  { testSession zeros with result := some 0xF0, value := some 7, inputs := [i] }

theorem test_witness_HostReadsOutputs :
    (testOutputs .readStat).inputs = .readStat :: [] ∧
    ((testOutputs .readResult).inputs = .readResult :: [] ∧ (testOutputs .readResult).result = some 0xF0) ∧
    ((testOutputs .readValue).inputs = .readValue :: [] ∧ (testOutputs .readValue).value = some 7) ∧
    ((testOutputs .readGeometry).inputs = .readGeometry :: [] ∧ (testOutputs .readGeometry).initialized = true ∧
      (testOutputs .readGeometry).geometry = some testGeometry) :=
  ⟨rfl, ⟨rfl, rfl⟩, ⟨rfl, rfl⟩, ⟨rfl, rfl, rfl⟩⟩

/-- A block whose action never completed, with one input. -/
def testRunning (i : Input) : State := { testReset zeros with seq := .run .openLink, inputs := [i] }

theorem test_witness_BusyHostWaits :
    ((testReset zeros).seq = .idle ∧ (testReset zeros).inputs = []) ∧
    ({ testReset zeros with seq := .run .openLink }.seq ≠ .idle ∧
      { testReset zeros with seq := .run .openLink }.inputs = []) ∧
    (∀ i, (testRunning i).seq ≠ .idle ∧ (testRunning i).inputs = i :: []) :=
  ⟨⟨rfl, rfl⟩, ⟨by decide, rfl⟩, fun _ => ⟨by simp [testRunning], rfl⟩⟩

theorem test_witness_LinesAreRequests :
    (readNumber ['6', '3'] = some 63 ∧ readNumber ['6', '4'] = some 64 ∧
      readNumber ['0', 'x', 'F', 'F', 'F', 'F', 'F', 'F', 'F', 'F'] = some (2 ^ 32 - 1) ∧
      readNumber ['0', 'x', '1', '0', '0', '0', '0', '0', '0', '0', '0'] = some (2 ^ 32)) ∧
    (AsmLine.rdreg (.number 63)).toInstr Params.reference = some (.rdreg 63) ∧
      (AsmLine.rdreg (.number 64)).toInstr Params.reference = none ∧
      (AsmLine.erase (2 ^ 32 - 1)).toInstr Params.reference = some (.erase 0xFFFFFFFF) ∧
      (AsmLine.wrreg (.named .status) 1).toInstr Params.reference = some (.wrreg 4 1) := by decide

/-- The reference device in flash mode, past its unreliable first read. -/
def testQuiet : Rdm := { testRdm with fm := true }

theorem test_witness_QuietReferenceDeviceIsReady : testQuiet.quiet = true := rfl

theorem testQuiet_wf : testQuiet.wf Params.reference = true :=
  Rdm.wf_congr (r := testRdm) (Rdm.wf_atReset _ _ _ _ _) rfl rfl rfl rfl rfl

/-- A device ready to erase, one ready to program, and one ready for neither. -/
theorem test_witness_ReferenceDeviceArrayWrites :
    (let r := { testQuiet with hist := [0xAA, 0x55], reg := testQuiet.reg.set 0 0x18 }
     r.wf Params.reference = true ∧ (Params.reference.cmdEExec = 0x05 ∧ r.hist = [0xAA, 0x55] ∧
      r.regAt Params.reference.regConfig &&& Params.reference.weMask ≠ 0)) ∧
    (let r := { testQuiet with hist := [0x55, 0xAA], reg := testQuiet.reg.set 0 0x18 }
     r.wf Params.reference = true ∧ (Params.reference.cmdWExec = 0x04 ∧ r.hist = [0x55, 0xAA] ∧
      r.regAt Params.reference.regConfig &&& Params.reference.weMask ≠ 0)) ∧
    (testQuiet.wf Params.reference = true ∧ testQuiet.hist ≠ [0xAA, 0x55] ∧ testQuiet.hist ≠ [0x55, 0xAA]) := by
  have h : ∀ hist, ({ testQuiet with hist := hist, reg := testQuiet.reg.set 0 0x18 } : Rdm).wf Params.reference = true := by
    intro hist
    have := (Rdm.wf_iff _ testQuiet).mp testQuiet_wf
    exact (Rdm.wf_iff _ _).mpr ⟨by simpa using this.1, this.2⟩
  exact ⟨⟨h _, by decide, rfl, by decide⟩, ⟨h _, by decide, rfl, by decide⟩, testQuiet_wf, by decide, by decide⟩

theorem test_witness_RoundTripOfFirstSector :
    (testSession (.rdm testQuiet)).halted = false ∧ (testSession (.rdm testQuiet)).initialized = true ∧
      (testSession (.rdm testQuiet)).geometry = some testGeometry ∧ (0x20 : Word).toNat % testGeometry.pagesCount = 0 ∧
      sbWf (testSession (.rdm testQuiet)).sb = true ∧ sbFull (testSession (.rdm testQuiet)).sb = true ∧
      (testSession (.rdm testQuiet)).TransportCompletes ∧
      (testSession (.rdm testQuiet)).params.admissible = true ∧
      distinctRegisters (testSession (.rdm testQuiet)).params = true ∧
      distinctCommands (testSession (.rdm testQuiet)).params = true ∧
      (testSession (.rdm testQuiet)).device = .rdm testQuiet ∧ testQuiet.wf Params.reference = true ∧ testQuiet.quiet = true ∧
      testQuiet.erased = 0xFF ∧ sbWf ([] : Memory) = true :=
  ⟨rfl, rfl, rfl, by decide, by rw [testSession_sb]; exact testSB_wf, by rw [testSession_sb]; exact testSB_full,
    test_empty_transport_completes _ rfl, by decide, by decide, by decide, rfl, testQuiet_wf, rfl, rfl, rfl⟩

end Sys2Proof.Tests
end

section
/-! SUPPORT. How `exec` answers, once for every instruction: it refuses, or it runs the instruction's body and concludes
it. What a body may write, how it can stop, and what the concluded state is. -/

namespace Sys2Proof.Machine

/-! ## Every instruction is a body between a beginning and a conclusion -/

/-- The body an admitted instruction runs. -/
def bodyOf : Instr → State → Run Unit
  | .openLink => openBody
  | .closeLink => closeBody
  | .enter => enterBody
  | .leave => leaveBody
  | .rdreg a => rdregBody a
  | .wrreg a v => regWrite a v
  | .init => initBody
  | .rdsec lba => fun s => loseSB (rdsecBody lba s)
  | .wrsec lba => wrsecBody lba
  | .erase lba => eraseBody lba
  | .spiRd a => fun s => (regRead a s).bind fun _ s => .ok () s
  | .spiWr a v => regWrite a v

/-- How an instruction's body is concluded: a frame put on the channel by itself writes no RESULT (log 7). -/
def concludeOn : Port → Run Unit → State
  | .request => conclude
  | .link => concludeFrame

/-- The shape `exec` has for every instruction (R89, R205). -/
theorem exec_eq (i : Instr) (s : State) :
    exec i s = .next
      (if s.halted then s.refuse .halted
       else if ready i s then concludeOn i.port (bodyOf i (s.begin i))
       else s.refuse .precondition) := by
  cases i <;> rfl

/-- An instruction is refused, or admitted and run to its conclusion. -/
theorem exec_cases {i : Instr} {s t : State} (h : exec i s = .next t) :
    (∃ reason, t = s.refuse reason) ∨
      (s.halted = false ∧ ready i s = true ∧ t = concludeOn i.port (bodyOf i (s.begin i))) := by
  rw [exec_eq, Host.Outcome.next.injEq] at h
  split at h
  · exact .inl ⟨_, h.symm⟩
  next hh =>
    split at h
    next hr => exact .inr ⟨by simpa using hh, hr, h.symm⟩
    · exact .inl ⟨_, h.symm⟩

/-! ## How a part of a request stops -/

/-- Why a part of a request stopped early, if it did. -/
def Run.ending {α : Type} : Run α → Option Ending
  | .ok _ _ => none
  | .ended why _ => some why

@[simp] theorem Run.ending_ok {α : Type} (a : α) (s : State) : (Run.ok a s).ending = none := rfl

@[simp] theorem Run.ending_ended {α : Type} (w : Ending) (s : State) : (Run.ended w s : Run α).ending = some w := rfl

/-- Two parts in sequence, the second knowing that the first went on. -/
theorem Run.state_bind_of_ok {α β : Type} {P : State → Prop} {r : Run α} {f : α → State → Run β} (hr : P r.state)
    (hf : ∀ a t, r = .ok a t → P (f a t).state) : P (r.bind f).state := by
  cases r with
  | ok a t => exact hf a t rfl
  | ended w t => exact hr

/-- How the part `r` of a request, run from `s`, can stop: RST cuts it only where the transport answers so, and a
transport failure leaves the failed event in the trace (R207, R230). -/
structure Stops {α : Type} (s : State) (r : Run α) : Prop where
  noReset : s.NoReset → r.ending ≠ some .abandoned ∧ r.state.NoReset
  failure : r.ending = some (.raised .transportFailure) → r.state.trace ≠ []

theorem Stops.ok {α : Type} {s t : State} {a : α} (h : t.answers = s.answers := by rfl) : Stops s (.ok a t) :=
  ⟨fun hs => ⟨by simp, by simpa [State.NoReset, h] using hs⟩, by simp⟩

theorem Stops.raised {α : Type} {s t : State} {e : Error} (h : t.answers = s.answers) (he : e ≠ .transportFailure) :
    Stops s (.ended (.raised e) t : Run α) :=
  ⟨fun hs => ⟨by simp, by simpa [State.NoReset, h] using hs⟩, by simp [he]⟩

theorem Stops.bind {α β : Type} {s : State} {r : Run α} {f : α → State → Run β} (hr : Stops s r)
    (hf : ∀ a t, Stops t (f a t)) : Stops s (r.bind f) := by
  cases r with
  | ended w t => exact ⟨hr.noReset, hr.failure⟩
  | ok a t => exact ⟨fun hs => (hf a t).noReset (hr.noReset hs).2, (hf a t).failure⟩

/-- A transport action stops in one of the transport's ways, or goes on (R94). -/
theorem attempt_stops {α : Type} (e : BusEvent) (s : State) {done : State → Run α} (hd : ∀ t, Stops t (done t)) :
    Stops s (attempt e s done) := by
  have hrest : ∀ a rest, s.answers = a :: rest → s.NoReset → { s with answers := rest }.NoReset :=
    fun a rest h hs hmem => hs (h ▸ List.mem_cons_of_mem a hmem)
  unfold attempt
  split
  · exact hd s
  next rest h => exact ⟨fun hs => (hd _).noReset (hrest _ rest h hs), (hd _).failure⟩
  next rest h => exact ⟨fun hs => ⟨by simp, hrest _ rest h hs⟩, by simp⟩
  next rest h => exact ⟨fun hs => ⟨by simp, hrest _ rest h hs⟩, by simp⟩
  next rest h => exact ⟨fun hs => absurd (h ▸ List.mem_cons_self) hs, by simp⟩

theorem emit_stops (e : BusEvent) (s : State) : Stops s (emit e s) := attempt_stops e s fun _ => .ok

theorem emitAll_stops (es : List BusEvent) (s : State) : Stops s (emitAll es s) := by
  induction es generalizing s with
  | nil => exact .ok
  | cons e rest ih => exact (emit_stops e s).bind fun _ t => ih t

/-! ## Register transactions move no handshake line -/

/-- The part `r` of a request, run from `s`, stops as a part can, and leaves the handshake lines as they were unless the
transport failed. -/
structure Transacts {α : Type} (s : State) (r : Run α) : Prop extends Stops s r where
  lines : r.ending ≠ some (.raised .transportFailure) →
    r.state.pins.hsA = s.pins.hsA ∧ r.state.pins.hsB = s.pins.hsB

theorem Transacts.ok {α : Type} {s t : State} {a : α} (h : t.answers = s.answers := by rfl)
    (hp : t.pins = s.pins := by rfl) : Transacts s (.ok a t) := ⟨.ok h, fun _ => by simp [hp]⟩

theorem Transacts.timeout {α : Type} (s : State) (stage : Stage) :
    Transacts s (.ended (.raised (.timeout stage)) s : Run α) := ⟨.raised rfl (by simp), fun _ => ⟨rfl, rfl⟩⟩

theorem Transacts.bind {α β : Type} {s : State} {r : Run α} {f : α → State → Run β} (hr : Transacts s r)
    (hf : ∀ a t, Transacts t (f a t)) : Transacts s (r.bind f) := by
  refine ⟨hr.toStops.bind fun a t => (hf a t).toStops, ?_⟩
  cases r with
  | ended w t => exact hr.lines
  | ok a t =>
    intro h
    have h1 := hr.lines (by simp)
    have h2 := (hf a t).lines h
    exact ⟨h2.1.trans h1.1, h2.2.trans h1.2⟩

/-- A part run after an update that touches neither the answers nor the lines. -/
theorem Transacts.after {α : Type} {s t : State} {r : Run α} (h : Transacts t r) (ha : t.answers = s.answers)
    (hp : t.pins = s.pins) : Transacts s r :=
  ⟨⟨fun hs => h.noReset (by simpa [State.NoReset, ha] using hs), h.failure⟩, fun hr => hp ▸ h.lines hr⟩

theorem attempt_transacts {α : Type} (e : BusEvent) (s : State) {done : State → Run α}
    (hd : ∀ t, Transacts t (done t)) : Transacts s (attempt e s done) := by
  refine ⟨attempt_stops e s fun t => (hd t).toStops, ?_⟩
  unfold attempt
  split
  · exact (hd s).lines
  next rest _ => exact (hd { s with answers := rest }).lines
  · exact fun h => absurd rfl h
  · exact fun _ => ⟨rfl, rfl⟩
  · exact fun _ => ⟨rfl, rfl⟩

theorem emit_csN_transacts (level : Bool) (s : State) : Transacts s (emit (.pin .csN level) s) :=
  attempt_transacts _ s fun _ => ⟨.ok, fun _ => ⟨rfl, rfl⟩⟩

theorem emit_delay_transacts (d : Nat) (s : State) : Transacts s (emit (.delay d) s) :=
  attempt_transacts _ s fun _ => .ok

theorem xfer_transacts (tx : List Byte) (s : State) : Transacts s (xfer tx s) :=
  (attempt_transacts _ (s.sending tx) fun _ => .ok).after rfl rfl

theorem transact_transacts (tx : List Byte) (s : State) : Transacts s (transact tx s) :=
  (emit_csN_transacts _ s).bind fun _ t => (emit_delay_transacts _ t).bind fun _ t =>
    (xfer_transacts _ t).bind fun _ t => (emit_csN_transacts _ t).bind fun _ _ => .ok

theorem regRead_transacts (a : RegAddr) (s : State) : Transacts s (regRead a s) :=
  (transact_transacts _ s).bind fun _ _ => .ok

theorem regWrite_transacts (a : RegAddr) (v : Word) (s : State) : Transacts s (regWrite a v s) :=
  (transact_transacts _ s).bind fun _ _ => .ok

theorem clearStatus_transacts (s : State) : Transacts s (clearStatus s) :=
  (regRead_transacts _ s).bind fun v t => (regWrite_transacts _ v (t.hold v)).after rfl rfl

theorem enableWrite_transacts (s : State) : Transacts s (enableWrite s) :=
  (regRead_transacts _ s).bind fun v t => (regWrite_transacts _ _ (t.hold v)).after rfl rfl

theorem pollLoop_transacts (stage : Stage) (p left : Nat) (s : State) : Transacts s (pollLoop stage p left s) := by
  induction left generalizing p s with
  | zero => exact .timeout s stage
  | succ left ih =>
    unfold pollLoop
    refine Transacts.bind ((regRead_transacts _ _).after rfl rfl) fun st t => ?_
    split
    · exact .ok
    · cases left with
      | zero => exact .timeout t stage
      | succ left => exact (emit_delay_transacts _ t).bind fun _ u => ih (p + 1) u

theorem waitReady_transacts (stage : Stage) (s : State) : Transacts s (waitReady stage s) :=
  pollLoop_transacts stage 1 _ s

theorem eraseBody_transacts (lba : Word) (s : State) : Transacts s (eraseBody lba s) :=
  (clearStatus_transacts s).bind fun _ t => (enableWrite_transacts t).bind fun _ t =>
    (regWrite_transacts _ _ t).bind fun _ t => (regWrite_transacts _ _ t).bind fun _ t =>
      (regWrite_transacts _ _ t).bind fun _ t => (regWrite_transacts _ _ t).bind fun _ t => waitReady_transacts _ t

theorem eraseFirst_transacts (lba : Word) (s : State) : Transacts s (eraseFirst lba s) := by
  unfold eraseFirst
  split
  · exact eraseBody_transacts lba s
  · exact .ok

theorem writeWords_transacts (n i : Nat) (s : State) : Transacts s (writeWords n i s) := by
  induction n generalizing i s with
  | zero => exact .ok
  | succ n ih =>
    exact Transacts.bind ((regWrite_transacts _ _ _).after rfl rfl) fun _ t =>
      (regWrite_transacts _ _ t).bind fun _ u => ih (i + 1) u

theorem wrsecBody_transacts (lba : Word) (s : State) : Transacts s (wrsecBody lba s) :=
  (eraseFirst_transacts lba s).bind fun _ t => (clearStatus_transacts t).bind fun _ t =>
    (regWrite_transacts _ _ t).bind fun _ t => (writeWords_transacts _ _ t).bind fun _ t =>
      (waitReady_transacts _ t).bind fun _ t => (regWrite_transacts _ _ t).bind fun _ t =>
        (waitReady_transacts _ t).bind fun _ t => (regWrite_transacts _ _ t).bind fun _ t =>
          (regWrite_transacts _ _ t).bind fun _ t => (regWrite_transacts _ _ t).bind fun _ t => waitReady_transacts _ t

theorem readWords_transacts (n i : Nat) (s : State) : Transacts s (readWords n i s) := by
  induction n generalizing i s with
  | zero => exact .ok
  | succ n ih =>
    exact Transacts.bind ((regWrite_transacts _ _ _).after rfl rfl) fun _ t =>
      (regRead_transacts _ t).bind fun _ u => (ih (i + 1) _).after rfl rfl

theorem rdsecBody_transacts (lba : Word) (s : State) : Transacts s (rdsecBody lba s) :=
  (clearStatus_transacts s).bind fun _ t => (regWrite_transacts _ _ t).bind fun _ t =>
    (regWrite_transacts _ _ t).bind fun _ t => (waitReady_transacts _ t).bind fun _ t =>
      (regWrite_transacts _ _ t).bind fun _ t => readWords_transacts _ _ t

/-- What a transport failure in RDSEC adds: other contents of SB, and the draws they took (U13). -/
theorem loseSB_state (r : Run Unit) :
    (loseSB r).ending = r.ending ∧ ∃ m k, (loseSB r).state = { r.state with sb := m, draws := k } ∧
      (sbWf r.state.sb = true → sbWf m = true) := by
  unfold loseSB
  split
  next t => exact ⟨by simp only [Run.ending_ended], freeSB t.draws, t.draws + sectorBytes, rfl, fun _ => sbWf_freeSB _⟩
  · exact ⟨rfl, _, _, rfl, id⟩

theorem loseSB_transacts {s : State} {r : Run Unit} (h : Transacts s r) : Transacts s (loseSB r) := by
  obtain ⟨he, m, k, hs, -⟩ := loseSB_state r
  constructor
  · constructor
    · rw [he, hs]
      exact h.noReset
    · rw [he, hs]
      exact h.failure
  · rw [he, hs]
    exact h.lines

/-! ## How every body stops -/

theorem openBody_stops (s : State) : Stops s (openBody s) := by
  unfold openBody
  split
  · exact .ok
  · exact (emitAll_stops _ s).bind fun _ _ => .ok

theorem enterBody_stops (s : State) : Stops s (enterBody s) := (emitAll_stops _ s).bind fun _ _ => .ok

theorem adoptGeometry_stops (v : Word) (s : State) : Stops s (adoptGeometry v s) := by
  unfold adoptGeometry
  split
  · exact .ok
  · exact .raised rfl (by simp)

theorem showCachedRaw_answers (s : State) : s.showCachedRaw.answers = s.answers := by
  unfold State.showCachedRaw
  split <;> rfl

theorem initBody_stops (s : State) : Stops s (initBody s) := by
  unfold initBody
  split
  · exact .ok (showCachedRaw_answers s)
  · exact (openBody_stops s).bind fun _ t => (enterBody_stops t).bind fun _ t =>
      (regRead_transacts _ t).toStops.bind fun _ t => (regRead_transacts _ t).toStops.bind fun v t =>
        adoptGeometry_stops v t

/-- The instructions whose bodies are register transactions with delays between them. -/
def transactsOnly : Instr → Prop
  | .openLink | .closeLink | .enter | .leave | .init => False
  | _ => True

theorem bodyOf_transacts {i : Instr} (hi : transactsOnly i) (s : State) : Transacts s (bodyOf i s) := by
  cases i with
  | rdreg a => exact (regRead_transacts a s).bind fun _ _ => .ok
  | wrreg a v => exact regWrite_transacts a v s
  | rdsec lba => exact loseSB_transacts (rdsecBody_transacts lba s)
  | wrsec lba => exact wrsecBody_transacts lba s
  | erase lba => exact eraseBody_transacts lba s
  | spiRd a => exact (regRead_transacts a s).bind fun _ _ => .ok
  | spiWr a v => exact regWrite_transacts a v s
  | _ => exact hi.elim

theorem bodyOf_stops (i : Instr) (s : State) : Stops s (bodyOf i s) := by
  cases i with
  | openLink => exact openBody_stops s
  | closeLink => exact (emitAll_stops _ s).bind fun _ _ => .ok
  | enter => exact enterBody_stops s
  | leave => exact (emitAll_stops _ s).bind fun _ _ => .ok
  | init => exact initBody_stops s
  | _ => exact (bodyOf_transacts (by trivial) s).toStops

/-! ## What a body may write -/

/-- `s` with the fields that instruction `i` itself may write, beside what bus events write, taken from `t`. -/
def withWritten (i : Instr) (s t : State) : State :=
  match i with
  | .openLink => { s with linkOpen := t.linkOpen }
  | .closeLink => { s with linkOpen := t.linkOpen, initialized := t.initialized, geometry := t.geometry }
  | .leave => { s with initialized := t.initialized, geometry := t.geometry }
  | .rdreg _ => { s with value := t.value }
  | .init =>
    { s with linkOpen := t.linkOpen, initialized := t.initialized, geometry := t.geometry, value := t.value }
  | .rdsec _ => { s with sb := t.sb }
  | .enter | .wrreg _ _ | .wrsec _ | .erase _ | .spiRd _ | .spiWr _ _ => s

/-- `t` differs from `s` only in what bus events write and in what `i` may write. -/
def ChangesOnly (i : Instr) (s t : State) : Prop := BusOnly (withWritten i s t) t

theorem withWritten_of_busOnly {s t u : State} (i : Instr) (h : BusOnly t u) :
    withWritten i s u = withWritten i s t := by
  cases i <;> simp [withWritten, h.linkOpen, h.initialized, h.geometry, h.value, h.sb]

theorem withWritten_self (i : Instr) (s : State) : withWritten i s s = s := by
  cases i <;> rfl

theorem ChangesOnly.refl (i : Instr) (s : State) : ChangesOnly i s s := by
  unfold ChangesOnly
  rw [withWritten_self]
  exact .refl s

/-- A bus operation after such changes. -/
theorem ChangesOnly.trans_busOnly {i : Instr} {s t u : State} (h : ChangesOnly i s t) (k : BusOnly t u) :
    ChangesOnly i s u := by
  unfold ChangesOnly
  rw [withWritten_of_busOnly i k]
  exact BusOnly.trans h k

theorem BusOnly.changesOnly {s t : State} (h : BusOnly s t) (i : Instr) : ChangesOnly i s t :=
  (ChangesOnly.refl i s).trans_busOnly h

/-- Writing the draws and the device is a bus operation's effect. -/
theorem BusOnly.deviceDraws (s : State) (d : Device) (k : Nat) : BusOnly s { s with device := d, draws := k } :=
  ⟨rfl, rfl, rfl, rfl, rfl, rfl, rfl, rfl, rfl, rfl, rfl, rfl, rfl⟩

theorem openBody_changesOnly (s : State) : ChangesOnly .openLink s (openBody s).state := by
  unfold openBody
  split
  · exact .refl _ s
  · exact Run.state_bind (P := ChangesOnly .openLink s) ((emitAll_busOnly _ s).changesOnly _)
      fun _ t h => { h with linkOpen := rfl }

theorem enterBody_busOnly (s : State) : BusOnly s (enterBody s).state :=
  (emitAll_busOnly _ s).bind fun _ t => BusOnly.deviceDraws t _ _

theorem closeBody_changesOnly (s : State) : ChangesOnly .closeLink s (closeBody s).state :=
  Run.state_bind (P := ChangesOnly .closeLink s) ((emitAll_busOnly _ s).changesOnly _)
    fun _ _ h => { h with linkOpen := rfl, initialized := rfl, geometry := rfl }

theorem leaveBody_changesOnly (s : State) : ChangesOnly .leave s (leaveBody s).state :=
  Run.state_bind (P := ChangesOnly .leave s) ((emitAll_busOnly _ s).changesOnly _)
    fun _ _ h => { h with initialized := rfl, geometry := rfl }

theorem rdregBody_changesOnly (a : RegAddr) (s : State) : ChangesOnly (.rdreg a) s (rdregBody a s).state :=
  Run.state_bind (P := ChangesOnly (.rdreg a) s) ((regRead_busOnly a s).changesOnly _)
    fun _ _ h => { h with value := rfl }

theorem showCachedRaw_changesOnly (s : State) : ChangesOnly .init s s.showCachedRaw := by
  unfold State.showCachedRaw
  split
  · exact ⟨rfl, rfl, rfl, rfl, rfl, rfl, rfl, rfl, rfl, rfl, rfl, rfl, rfl⟩
  · exact .refl _ s

theorem adoptGeometry_changesOnly {s t : State} (v : Word) (h : ChangesOnly .init s t) :
    ChangesOnly .init s (adoptGeometry v t).state := by
  unfold adoptGeometry
  split
  · exact { h with initialized := rfl, geometry := rfl, value := rfl }
  · exact { h with initialized := rfl, geometry := rfl, value := rfl }

theorem initBody_changesOnly (s : State) : ChangesOnly .init s (initBody s).state := by
  have hopen : ChangesOnly .init s (openBody s).state :=
    { openBody_changesOnly s with linkOpen := rfl, initialized := rfl, geometry := rfl, value := rfl }
  unfold initBody
  split
  · exact showCachedRaw_changesOnly s
  · exact Run.state_bind hopen fun _ t ht =>
      Run.state_bind (ht.trans_busOnly (enterBody_busOnly t)) fun _ t ht =>
        Run.state_bind (ht.trans_busOnly (regRead_busOnly _ t)) fun _ t ht =>
          Run.state_bind (ht.trans_busOnly (regRead_busOnly _ t)) fun v _ ht => adoptGeometry_changesOnly v ht

theorem readWords_changesOnly (lba : Word) (n i : Nat) {s t : State} (h : ChangesOnly (.rdsec lba) s t) :
    ChangesOnly (.rdsec lba) s (readWords n i t).state := by
  induction n generalizing i t with
  | zero => exact h
  | succ n ih =>
    have hlatched := h.trans_busOnly (BusOnly.latches t { t.latches with word := some i })
    exact Run.state_bind (hlatched.trans_busOnly (regWrite_busOnly _ _ _)) fun _ t ht =>
      Run.state_bind (ht.trans_busOnly (regRead_busOnly _ t)) fun _ _ ht => ih (i + 1) { ht with sb := rfl }

/-- RDSEC before its word loop is bus operations only. -/
theorem rdsecBody_changesOnly (lba : Word) (s : State) : ChangesOnly (.rdsec lba) s (rdsecBody lba s).state :=
  Run.state_bind ((clearStatus_busOnly s).changesOnly _) fun _ t ht =>
    Run.state_bind (ht.trans_busOnly (regWrite_busOnly _ _ t)) fun _ t ht =>
      Run.state_bind (ht.trans_busOnly (regWrite_busOnly _ _ t)) fun _ t ht =>
        Run.state_bind (ht.trans_busOnly (waitReady_busOnly _ t)) fun _ t ht =>
          Run.state_bind (ht.trans_busOnly (regWrite_busOnly _ _ t)) fun _ _ ht => readWords_changesOnly lba _ _ ht

theorem loseSB_changesOnly {lba : Word} {s : State} {r : Run Unit} (h : ChangesOnly (.rdsec lba) s r.state) :
    ChangesOnly (.rdsec lba) s (loseSB r).state := by
  obtain ⟨-, m, k, hs, -⟩ := loseSB_state r
  rw [hs]
  exact { h with sb := rfl }

/-- No body writes a field that is not its instruction's to write, however it ends. -/
theorem bodyOf_changesOnly (i : Instr) (s : State) : ChangesOnly i s (bodyOf i s).state := by
  cases i with
  | openLink => exact openBody_changesOnly s
  | closeLink => exact closeBody_changesOnly s
  | enter => exact enterBody_busOnly s
  | leave => exact leaveBody_changesOnly s
  | rdreg a => exact rdregBody_changesOnly a s
  | wrreg a v => exact regWrite_busOnly a v s
  | init => exact initBody_changesOnly s
  | rdsec lba => exact loseSB_changesOnly (rdsecBody_changesOnly lba s)
  | wrsec lba => exact wrsecBody_busOnly lba s
  | erase lba => exact eraseBody_busOnly lba s
  | spiRd a => exact (regRead_busOnly a s).bind fun _ t => .refl t
  | spiWr a v => exact regWrite_busOnly a v s

/-! ## The state an instruction ends in when no reset cuts it -/

/-- `t` concludes the body `r`: it has every field of the state `r` left but RESULT and the sequencer's, and HALTED is
set exactly by a transport failure (R203, R207). -/
structure Concludes (r : Run Unit) (t : State) : Prop where
  fields : t = { r.state with result := t.result, seq := t.seq, stepIdx := t.stepIdx, halted := t.halted }
  halted : t.halted = (r.state.halted || decide (r.ending = some (.raised .transportFailure)))
  failure : r.ending = some (.raised .transportFailure) → t.result = some 0x20 ∧ t.seq = .idle

theorem concludeOn_concludes (p : Port) {r : Run Unit} (h : r.ending ≠ some .abandoned) :
    Concludes r (concludeOn p r) := by
  have hraise : ∀ (e : Error) (s : State), Concludes (.ended (.raised e) s) (s.raise e) := by
    intro e s
    refine ⟨rfl, by cases e <;> simp, ?_⟩
    intro hf
    simp only [Run.ending_ended, Option.some.injEq, Ending.raised.injEq] at hf
    exact hf ▸ ⟨rfl, rfl⟩
  cases r with
  | ok a s => cases p <;> exact ⟨rfl, by simp [concludeOn, conclude, concludeFrame], by simp⟩
  | ended w s =>
    cases w with
    | raised e => cases p <;> exact hraise e s
    | abandoned => exact absurd rfl h
    | hung => cases p <;> exact ⟨rfl, by simp [concludeOn, conclude, concludeFrame], by simp⟩

/-- What an instruction does when no reset cuts it: it is refused, or its body is concluded. -/
theorem exec_cases_of_noReset {i : Instr} {s t : State} (h : exec i s = .next t) (hr : s.NoReset) :
    (∃ reason, t = s.refuse reason) ∨ (s.halted = false ∧ Concludes (bodyOf i (s.begin i)) t) := by
  obtain h | ⟨hh, -, rfl⟩ := exec_cases h
  · exact .inl h
  · exact .inr ⟨hh, concludeOn_concludes _ ((bodyOf_stops i (s.begin i)).noReset hr).1⟩

section
variable {i : Instr} {s t : State}

/-- The fields that no instruction writes by itself. -/
theorem Concludes.untouched (h : Concludes (bodyOf i (s.begin i)) t) :
    t.refused = s.refused ∧ t.params = s.params ∧ t.inputs = s.inputs ∧ t.seen = s.seen ∧
      (bodyOf i (s.begin i)).state.halted = s.halted := by
  have hb : BusOnly _ _ := bodyOf_changesOnly i (s.begin i)
  rw [h.fields]
  exact ⟨hb.refused.trans (by cases i <;> rfl), hb.params.trans (by cases i <;> rfl),
    hb.inputs.trans (by cases i <;> rfl), hb.seen.trans (by cases i <;> rfl), hb.halted.trans (by cases i <;> rfl)⟩

/-- VALUE is RDREG's and INIT's to write (R29). -/
theorem Concludes.value (h : Concludes (bodyOf i (s.begin i)) t) (h1 : ∀ a, i ≠ .rdreg a) (h2 : i ≠ .init) :
    t.value = s.value := by
  have hb : BusOnly _ _ := bodyOf_changesOnly i (s.begin i)
  rw [h.fields]
  refine hb.value.trans ?_
  cases i with
  | rdreg a => exact absurd rfl (h1 a)
  | init => exact absurd rfl h2
  | _ => rfl

/-- SB is RDSEC's to write (R27). -/
theorem Concludes.sb (h : Concludes (bodyOf i (s.begin i)) t) (h1 : ∀ lba, i ≠ .rdsec lba) : t.sb = s.sb := by
  have hb : BusOnly _ _ := bodyOf_changesOnly i (s.begin i)
  rw [h.fields]
  refine hb.sb.trans ?_
  cases i with
  | rdsec lba => exact absurd rfl (h1 lba)
  | _ => rfl

/-- The session is INIT's, CLOSE's and LEAVE's to write (R24, R180). -/
theorem Concludes.session (h : Concludes (bodyOf i (s.begin i)) t) (h1 : i ≠ .init) (h2 : i ≠ .closeLink)
    (h3 : i ≠ .leave) : t.initialized = s.initialized ∧ t.geometry = s.geometry := by
  have hb : BusOnly _ _ := bodyOf_changesOnly i (s.begin i)
  rw [h.fields]
  refine ⟨hb.initialized.trans ?_, hb.geometry.trans ?_⟩ <;>
  cases i with
  | init => exact absurd rfl h1
  | closeLink => exact absurd rfl h2
  | leave => exact absurd rfl h3
  | _ => rfl

/-- `link_open` is OPEN's, CLOSE's and INIT's to write (R21). -/
theorem Concludes.linkOpen (h : Concludes (bodyOf i (s.begin i)) t) (h1 : i ≠ .openLink) (h2 : i ≠ .closeLink)
    (h3 : i ≠ .init) : t.linkOpen = s.linkOpen := by
  have hb : BusOnly _ _ := bodyOf_changesOnly i (s.begin i)
  rw [h.fields]
  refine hb.linkOpen.trans ?_
  cases i with
  | openLink => exact absurd rfl h1
  | closeLink => exact absurd rfl h2
  | init => exact absurd rfl h3
  | _ => rfl

/-- HALTED is set by a transport failure and by nothing else (R31, R207). -/
theorem Concludes.halted_iff (h : Concludes (bodyOf i (s.begin i)) t) (hs : s.halted = false) :
    t.halted = true ↔ (bodyOf i (s.begin i)).ending = some (.raised .transportFailure) := by
  obtain ⟨-, -, -, -, hh⟩ := h.untouched
  simp [h.halted, hh, hs]

end

/-! ## Directions -/

/-- No body but OPEN's and INIT's changes a direction (R45). -/
theorem bodyOf_formKept {i : Instr} (h1 : i ≠ .openLink) (h2 : i ≠ .init) (s : State) :
    FormKept s (bodyOf i s).state := by
  cases i with
  | openLink => exact absurd rfl h1
  | init => exact absurd rfl h2
  | closeLink => exact closeBody_formKept s
  | enter => exact enterBody_formKept s
  | leave => exact leaveBody_formKept s
  | rdreg a => exact (regRead_formKept a s).bind fun _ _ => ⟨rfl, rfl, rfl, id, rfl, id⟩
  | wrreg a v => exact regWrite_formKept a v s
  | rdsec lba =>
    obtain ⟨-, m, k, hs, -⟩ := loseSB_state (rdsecBody lba s)
    exact (rdsecBody_formKept lba s).trans (hs ▸ ⟨rfl, rfl, rfl, id, rfl, id⟩)
  | wrsec lba => exact wrsecBody_formKept lba s
  | erase lba => exact eraseBody_formKept lba s
  | spiRd a => exact (regRead_formKept a s).bind fun _ t => .refl t
  | spiWr a v => exact regWrite_formKept a v s

end Sys2Proof.Machine
end

section
/-! PROOFS. What an instruction changes and what it leaves alone: the flags, the outputs, the session, the lines, and a
block whose link is closed. -/

namespace Sys2Proof.Machine

/-- Settles O41: a refusal is the only writer of REFUSED, and a transport failure in an admitted body the only writer of
HALTED. -/
theorem stickyFlags : Obligations.StickyFlags := by
  intro i s t h hr
  obtain ⟨reason, rfl⟩ | ⟨hh, hc⟩ := exec_cases_of_noReset h hr
  · exact ⟨fun _ => rfl, id, fun _ _ => ⟨rfl, rfl⟩, fun h0 h1 => absurd (h0.symm.trans h1) (by decide)⟩
  · obtain ⟨hrefused, -⟩ := hc.untouched
    refine ⟨hrefused.trans, fun h1 => absurd (hh.symm.trans h1) (by decide), ?_, ?_⟩
    · exact fun h0 h1 => absurd (h0.symm.trans (hrefused.symm.trans h1)) (by decide)
    · intro _ h1
      have hfail := (hc.halted_iff hh).mp h1
      obtain ⟨hresult, hidle⟩ := hc.failure hfail
      refine ⟨hresult, hidle, ?_⟩
      rw [hc.fields]
      exact (bodyOf_stops i (s.begin i)).failure hfail

/-- Settles O43, from the fields each body may write. -/
theorem frameOfOutputs : Obligations.FrameOfOutputs := by
  intro i s t h hr
  obtain ⟨reason, rfl⟩ | ⟨-, hc⟩ := exec_cases_of_noReset h hr
  · exact ⟨fun _ _ => rfl, fun _ => ⟨rfl, fun _ => rfl⟩, rfl, rfl, rfl⟩
  · obtain ⟨-, hparams, hinputs, hseen, -⟩ := hc.untouched
    exact ⟨hc.value, fun h1 => ⟨hc.sb h1, fun x => by rw [hc.sb h1]⟩, hparams, hinputs, hseen⟩

/-- Settles O44, from the fields each body may write. -/
theorem frameOfSession : Obligations.FrameOfSession := by
  intro i s t h hr
  obtain ⟨reason, rfl⟩ | ⟨-, hc⟩ := exec_cases_of_noReset h hr
  · exact ⟨fun _ _ _ => ⟨rfl, rfl⟩, fun _ _ _ => rfl⟩
  · exact ⟨hc.session, hc.linkOpen⟩

/-- Settles O45: no body but OPEN's and INIT's has a `PinDir` event, and register transactions drive CS_N only. -/
theorem frameOfLines : Obligations.FrameOfLines := by
  intro i s t h hr
  obtain ⟨reason, rfl⟩ | ⟨hh, hc⟩ := exec_cases_of_noReset h hr
  · exact ⟨fun _ _ => ⟨rfl, rfl, rfl⟩, fun _ _ _ _ _ _ => ⟨rfl, rfl⟩⟩
  · have hpins : t.pins = (bodyOf i (s.begin i)).state.pins := by rw [hc.fields]
    rw [hpins]
    constructor
    · intro h1 h2
      have hf := bodyOf_formKept h1 h2 (s.begin i)
      exact ⟨hf.dirA, hf.dirB, hf.dirC⟩
    · intro h1 h2 h3 h4 h5 hsame
      -- the five instructions with other bodies are the five excluded
      have hi : transactsOnly i := by
        cases i <;> trivial
      refine (bodyOf_transacts hi (s.begin i)).lines fun hfail => ?_
      exact absurd (((hc.halted_iff hh).mpr hfail).symm.trans (hsame.trans hh)) (by decide)

/-! ## A block whose link is closed -/

/-- Every precondition but OPEN's and INIT's asks for an open link, or for a session, which has one (R33 (2)). -/
theorem linkOpen_of_ready {i : Instr} {s : State} (hs : s.Inv) (h : ready i s = true) (h1 : i ≠ .openLink)
    (h2 : i ≠ .init) : s.linkOpen = true := by
  cases i with
  | openLink => exact absurd rfl h1
  | init => exact absurd rfl h2
  | rdsec lba => exact hs.initializedOpen h
  | wrsec lba => exact hs.initializedOpen (Bool.and_elim_left h)
  | erase lba => exact hs.initializedOpen h
  | _ => exact h

theorem concludeOn_trace (p : Port) (r : Run Unit) : (concludeOn p r).trace = r.state.trace := by
  cases r with
  | ok a s => cases p <;> rfl
  | ended w s => cases w <;> cases p <;> rfl

/-- An emitted event is the next of the trace, if it is emitted at all. -/
theorem emit_trace (e : BusEvent) (s : State) : (emit e s).state.trace ⊆ s.trace ++ [e] := by
  unfold emit attempt
  split <;> simp

theorem emitAll_trace (es : List BusEvent) (s : State) : (emitAll es s).state.trace ⊆ s.trace ++ es := by
  induction es generalizing s with
  | nil => simp [emitAll]
  | cons e rest ih =>
    refine Run.state_bind (P := fun t => t.trace ⊆ s.trace ++ e :: rest) ?_ fun _ t ht => ?_
    · exact List.Subset.trans (emit_trace e s) (by simp)
    · exact List.Subset.trans (ih t) (List.append_subset.mpr ⟨ht, by simp⟩)

/-- No event of OPEN is a transfer (R118). -/
theorem transfersOf_openEvents {p : Params} {es : List BusEvent} (h : es ⊆ openEvents p) : transfersOf es = [] := by
  refine List.filterMap_eq_nil_iff.mpr fun e he => ?_
  have hmem : e = .pinDir .hsA ∨ e = .pinDir .hsB ∨ e = .pinDir .csN ∨ e = .pin .hsA true ∨ e = .pin .hsB true ∨
      e = .pin .csN true ∨ e = .chanOpen p.fSclk := by simpa [openEvents] using h he
  obtain rfl | rfl | rfl | rfl | rfl | rfl | rfl := hmem <;> rfl

/-- OPEN's body emits no event that is not one of its seven. -/
theorem openBody_trace (s : State) : (openBody s).state.trace ⊆ s.trace ++ openEvents s.params := by
  unfold openBody
  split
  · simp
  · exact Run.state_bind (P := fun t => t.trace ⊆ s.trace ++ openEvents s.params) (emitAll_trace _ s) fun _ _ ht => ht

/-- Settles O46: with the link closed everything but OPEN and INIT is refused, and OPEN has no transfer. -/
theorem noTransferWhileClosed : Obligations.NoTransferWhileClosed := by
  intro i s t hs hclosed hinit h
  obtain ⟨reason, rfl⟩ | ⟨-, hready, rfl⟩ := exec_cases h
  · exact ⟨rfl, fun _ => ⟨rfl, rfl⟩⟩
  · have hopen : i = .openLink := by
      by_contra hne
      exact absurd (hclosed.symm.trans (linkOpen_of_ready hs hready hne hinit)) (by decide)
    subst hopen
    refine ⟨?_, fun hne => absurd rfl hne⟩
    rw [concludeOn_trace]
    exact transfersOf_openEvents (openBody_trace (s.begin .openLink))

end Sys2Proof.Machine
end

section
/-! PROOFS. The host's port: RST, loads and reads of SB, and reads of the outputs. -/

namespace Sys2Proof.Machine

/-- A step serves the oldest pending input. -/
theorem step_of_inputs {s : State} {i : Input} {rest : List Input} (h : s.inputs = i :: rest) :
    step s = serveInput i { s with inputs := rest } := by
  simp [step, h]

/-- An idle block serves the host's move. -/
theorem whileIdle_of_idle {s : State} (h : s.seq = .idle) (move : State → Host.Outcome State Fault Refusal) :
    whileIdle s move = move s := by
  simp [whileIdle, State.busy, h]

/-- Settles O52. -/
theorem resetInput : Obligations.ResetInput := by
  intro s rest h
  rw [step_of_inputs h]
  by_cases hs : s.seq = .idle <;>
    simp [serveInput, State.hardReset, State.resetWith, State.busy, Pin.atReset, Latches.atReset, hs]

/-! ## SB -/

/-- Reading a range whose bytes are all listed. -/
theorem Memory.readBytes_eq_some {m : Memory} {a : Nat} {bs : List Byte}
    (h : ∀ j, j < bs.length → m.read (a + j) = bs[j]?) : m.readBytes a bs.length = some bs := by
  induction bs generalizing a with
  | nil => rfl
  | cons b rest ih =>
    have hhead : m.read a = some b := h 0 (by simp)
    have htail : m.readBytes (a + 1) rest.length = some rest := by
      refine ih fun j hj => ?_
      rw [Nat.add_assoc, Nat.add_comm 1 j]
      exact h (j + 1) (by simpa using hj)
    simp [Memory.readBytes, hhead, htail]

/-- Reading a range with a byte that is not listed. -/
theorem Memory.readBytes_eq_none {m : Memory} {a n x : Nat} (h1 : a ≤ x) (h2 : x < a + n) (h : m.read x = none) :
    m.readBytes a n = none := by
  induction n generalizing a with
  | zero => omega
  | succ n ih =>
    by_cases hx : x = a
    · subst hx
      simp [Memory.readBytes, h]
    · have htail : m.readBytes (a + 1) n = none := ih (by omega) (by omega)
      simp [Memory.readBytes, htail]

/-- The bytes written are read back. -/
theorem Memory.readBytes_writeBytes {m : Memory} (h : Memory.wf m = true) (a : Nat) (bs : List Byte) :
    (m.writeBytes a bs).readBytes a bs.length = some bs := by
  refine Memory.readBytes_eq_some fun j hj => ?_
  rw [Memory.read_writeBytes h, if_pos (by omega), Nat.add_sub_cancel_left]

/-- Settles O53, from the laws of a read after a write. -/
theorem hostLoadsAndReadsSB : Obligations.HostLoadsAndReadsSB := by
  intro s off bytes rest hidle hsb hin hinputs
  change off + bytes.length ≤ sectorBytes at hin
  have hwf : Memory.wf s.sb = true := Bool.and_elim_left hsb
  let t : State := { s with sb := s.sb.writeBytes off bytes, inputs := .readSB off bytes.length :: rest }
  let u : State := { t with inputs := rest, seen := some (.bytes bytes) }
  have hload : step s = .next t := by
    rw [step_of_inputs hinputs, serveInput, whileIdle_of_idle (by exact hidle), hostLoadSB, if_pos hin]
  have hread : step t = .next u := by
    rw [step_of_inputs rfl, serveInput, whileIdle_of_idle (by exact hidle), hostReadSB, if_pos hin,
      show t.sb.readBytes off bytes.length = some bytes from Memory.readBytes_writeBytes hwf off bytes]
  refine ⟨t, u, hload, hread, rfl, sbWf_writeBytes hsb off bytes hin, fun x hx => ?_, rfl⟩
  show (s.sb.writeBytes off bytes).read x = s.sb.read x
  rw [Memory.read_writeBytes hwf, if_neg (by omega)]

/-- Settles O54. -/
theorem readsWithoutValueFault : Obligations.ReadsWithoutValueFault := by
  intro s rest hidle
  refine ⟨?_, ?_, ?_, ?_, ?_, ?_⟩
  · intro off n x h hin h1 h2 hx
    change off + n ≤ sectorBytes at hin
    rw [step_of_inputs h, serveInput, whileIdle_of_idle (by exact hidle), hostReadSB, if_pos hin,
      Memory.readBytes_eq_none h1 h2 hx]
  · intro off n h hout
    change sectorBytes < off + n at hout
    rw [step_of_inputs h, serveInput, whileIdle_of_idle (by exact hidle), hostReadSB, if_neg (Nat.not_le.mpr hout)]
  · intro off bytes h hout
    change sectorBytes < off + bytes.length at hout
    rw [step_of_inputs h, serveInput, whileIdle_of_idle (by exact hidle), hostLoadSB, if_neg (Nat.not_le.mpr hout)]
  · intro h hnone
    simp [step_of_inputs h, serveInput, hostReadResult, hnone]
  · intro h hnone
    simp [step_of_inputs h, serveInput, hostReadValue, hnone]
  · intro h hnone
    simp [step_of_inputs h, serveInput, hostReadGeometry, hnone]

/-! ## The outputs -/

/-- Five flags in bits 0 to 4 are read back bit by bit, and bits 7:5 are zero (R34). -/
theorem statBits (b l i r h : Bool) :
    let low := statBit b 0 ||| statBit l 1 ||| statBit i 2 ||| statBit r 3 ||| statBit h 4
    low.getLsbD 0 = b ∧ low.getLsbD 1 = l ∧ low.getLsbD 2 = i ∧ low.getLsbD 3 = r ∧ low.getLsbD 4 = h ∧
      low.extractLsb' 5 3 = 0 := by
  revert b l i r h
  decide

theorem busy_eq (s : State) : s.busy = decide (s.seq ≠ .idle) := by
  by_cases h : s.seq = .idle <;> simp [State.busy, h]

/-- Settles O55. -/
theorem hostReadsOutputs : Obligations.HostReadsOutputs := by
  intro s rest
  refine ⟨fun h => ?_, fun r h hr => ?_, fun v h hv => ?_, fun g h hi hg => ?_⟩
  · obtain ⟨hbusy, hlink, hinit, hrefused, hhalted, hzero⟩ :=
      statBits s.busy s.linkOpen s.initialized s.refused s.halted
    exact ⟨s.statLow, step_of_inputs h, hbusy.trans (busy_eq s), hlink, hinit, hrefused, hhalted, hzero, rfl⟩
  · simp [step_of_inputs h, serveInput, hostReadResult, hr]
  · simp [step_of_inputs h, serveInput, hostReadValue, hv]
  · simp [step_of_inputs h, serveInput, hostReadGeometry, hi, hg]

end Sys2Proof.Machine
end

section
/-! PROOFS. The invariant of the block: it holds at reset, every body keeps it at every event, and so does every
conclusion, refusal and move of the host. -/

namespace Sys2Proof.Machine

/-! ## Reset -/

theorem inv_resetWith {p : Params} {d : Device} (hp : p.admissible = true) (hd : d.wf p = true) :
    (State.resetWith p d).Inv where
  session := rfl
  initializedOpen := nofun
  openOutputs := nofun
  levelsDriven l h := by cases l <;> exact absurd rfl h
  geometryLegal := nofun
  sbForm := rfl
  resultLegal := nofun
  idleStep _ := rfl
  runningStep h := absurd rfl h
  paramsAdmissible := hp
  deviceForm := hd

/-- A drawn value that is not admissible is replaced by the reference values, which are (R7). -/
theorem configParams_admissible : Config.params.admissible = true := by
  unfold Config.params
  split
  · assumption
  · decide

/-- Settles O50. -/
theorem invariantAtReset : Obligations.InvariantAtReset :=
  ⟨inv_resetWith configParams_admissible rfl, fun _ _ hp hd => inv_resetWith hp hd⟩

/-- RST leaves a block with the invariant (R230). -/
theorem State.Inv.hardReset {s : State} (hs : s.Inv) : s.hardReset.Inv := by
  have hd : (if s.busy then s.device.lost else s.device).wf s.params = true := by
    split
    · exact wf_lost hs.deviceForm
    · exact hs.deviceForm
  exact { inv_resetWith hs.paramsAdmissible hd with runningStep := fun h => absurd rfl h }

/-! ## A geometry that decodes is in range -/

/-- What R143's rows have in common. -/
def GeometryCell.legal : GeometryCell → Bool
  | .invalid => true
  | .fixed pages blocks fs =>
    [0x20, 0x100, 0x200].contains pages && [0x3E0, 0x7C0, 0xF80, 0x1E0, 0xF0].contains fs && decide (blocks ≤ 2 ^ 24)
  | .formula pages shift fs =>
    [0x20, 0x100, 0x200].contains pages && [0x3E0, 0x7C0, 0xF80, 0x1E0, 0xF0].contains fs && decide (17 ≤ shift)

theorem geometryCell_legal (c b : BitVec 2) : (geometryCell c b).legal = true := by
  revert c b
  decide

theorem extraOf_le (raw : Word) : extraOf raw ≤ 18 := by
  have h1 := (raw.extractLsb' 19 2).isLt
  have h2 := (raw.extractLsb' 21 4).isLt
  unfold extraOf
  omega

/-- The largest block count of R144 is `2^24`, at the largest `extra` and the smallest shift. -/
theorem formulaBlocks_le {extra shift : Nat} (h1 : extra ≤ 18) (h2 : 17 ≤ shift) :
    formulaBlocks extra shift ≤ 2 ^ 24 := by
  rw [formulaBlocks, Nat.one_shiftLeft, Nat.shiftRight_eq_div_pow]
  refine Nat.div_le_of_le_mul ?_
  rw [← Nat.pow_add]
  exact Nat.pow_le_pow_right (by omega) (by omega)

theorem decodeGeometry_legal {limit : Option Nat} {raw : Word} {g : FlashGeometry}
    (h : decodeGeometry limit raw = some g) : g.legal = true := by
  have hcell := geometryCell_legal (controllerTypeOf raw) (blockTypeOf raw)
  unfold decodeGeometry at h
  split at h
  · cases h
  · split at h
    · cases h
    next hrow =>
      obtain rfl := Option.some.inj h
      rw [hrow] at hcell
      exact hcell
    next hrow =>
      split at h
      · cases h
      · obtain rfl := Option.some.inj h
        rw [hrow] at hcell
        simp only [GeometryCell.legal, Bool.and_eq_true, decide_eq_true_eq] at hcell
        obtain ⟨hlisted, hshift⟩ := hcell
        simp only [FlashGeometry.legal, BEq.rfl, Bool.true_and, Bool.and_eq_true, decide_eq_true_eq]
        exact ⟨hlisted, formulaBlocks_le (extraOf_le raw) hshift⟩

/-! ## The invariant during a request -/

/-- The invariant while a request runs. -/
structure Running (s : State) : Prop where
  inv : s.Inv
  busy : s.seq ≠ .idle

/-- The same with the link open, which every body but OPEN's and INIT's has from its beginning (R205). -/
structure Linked (s : State) : Prop extends Running s where
  linkOpen : s.linkOpen = true

theorem Running.begin {s : State} (hs : s.Inv) (i : Instr) : Running (s.begin i) :=
  ⟨{ hs with idleStep := nofun, runningStep := fun _ => rfl }, nofun⟩

/-- After a bus operation the invariant holds again if the lines, the step counter and the device have their forms. -/
theorem Running.of_busOnly {s t : State} (hs : Running s) (hb : BusOnly s t)
    (hout : t.linkOpen = true → t.pins.hsA.dir = .output ∧ t.pins.hsB.dir = .output ∧ t.pins.csN.dir = .output)
    (hlevels : ∀ l, (t.pins.get l).level ≠ none → (t.pins.get l).dir = .output)
    (hstep : t.stepIdx = t.trace.length) (hdevice : t.device.wf t.params = true) : Running t where
  inv :=
    { session := by rw [hb.initialized, hb.geometry, hs.inv.session]
      initializedOpen := by rw [hb.initialized, hb.linkOpen]; exact hs.inv.initializedOpen
      openOutputs := hout
      levelsDriven := hlevels
      geometryLegal := by rw [hb.geometry]; exact hs.inv.geometryLegal
      sbForm := by rw [hb.sb]; exact hs.inv.sbForm
      resultLegal := by rw [hb.result]; exact hs.inv.resultLegal
      idleStep := fun h => absurd (hb.seq ▸ h) hs.busy
      runningStep := fun _ => hstep
      paramsAdmissible := by rw [hb.params]; exact hs.inv.paramsAdmissible
      deviceForm := hdevice }
  busy := by rw [hb.seq]; exact hs.busy

/-- With the link open the lines are outputs, so a bus operation that keeps the directions keeps the invariant. -/
theorem Linked.of_kept {s t : State} (hs : Linked s) (hb : BusOnly s t) (hf : FormKept s t) : Linked t := by
  obtain ⟨hA, hB, hC⟩ := hs.inv.openOutputs hs.linkOpen
  have hA' := hf.dirA.trans hA
  have hB' := hf.dirB.trans hB
  have hC' := hf.dirC.trans hC
  refine ⟨hs.toRunning.of_busOnly hb (fun _ => ⟨hA', hB', hC'⟩) (fun l _ => ?_)
    (hf.step (hs.inv.runningStep hs.busy)) (hf.device hs.inv.deviceForm), hb.linkOpen.trans hs.linkOpen⟩
  cases l <;> assumption

/-! ## OPEN: a line has a level only once it is an output -/

/-- A line has a level only if it is an output (R22, R232). -/
def Pins.LevelsDriven (ps : Pins) : Prop := ∀ l, (ps.get l).level ≠ none → (ps.get l).dir = .output

/-- An event drives a level only on a line that is an output. -/
def BusEvent.Drivable (ps : Pins) : BusEvent → Prop
  | .pin l _ => (ps.get l).dir = .output
  | .pinDir _ | .delay _ | .chanOpen _ | .chanClose | .xfer _ _ => True

/-- Each event of a list is drivable after the events before it. -/
def DrivableInOrder : List BusEvent → Pins → Prop
  | [], _ => True
  | e :: rest, ps => e.Drivable ps ∧ DrivableInOrder rest (drivePins e ps)

theorem Pins.get_set (ps : Pins) (l m : ControlLine) (p : Pin) :
    (ps.set l p).get m = if m = l then p else ps.get m := by
  cases l <;> cases m <;> rfl

theorem Pins.LevelsDriven.set {ps : Pins} (h : ps.LevelsDriven) (l : ControlLine) {p : Pin}
    (hp : p.level ≠ none → p.dir = .output) : (ps.set l p).LevelsDriven := by
  intro m
  rw [Pins.get_set]
  split
  · exact hp
  · exact h m

theorem Pins.LevelsDriven.drivePins {ps : Pins} (h : ps.LevelsDriven) {e : BusEvent} (he : e.Drivable ps) :
    (drivePins e ps).LevelsDriven := by
  cases e with
  | pinDir l => exact h.set l fun _ => rfl
  | pin l level => exact h.set l fun _ => he
  | _ => exact h

theorem Pins.LevelsDriven.unsureLine {ps : Pins} (h : ps.LevelsDriven) {e : BusEvent} (he : e.Drivable ps)
    (free : Bool) : (unsureLine e free ps).LevelsDriven := by
  cases e with
  | pinDir l =>
    refine h.set l fun hl => ?_
    cases free with
    | true => rfl
    | false => exact h l hl
  | pin l level => exact h.set l fun _ => he
  | _ => exact h

theorem emit_levelsDriven {e : BusEvent} {s : State} (hc : s.linkOpen = false) (h : s.pins.LevelsDriven)
    (he : e.Drivable s.pins) : (emit e s).state.pins.LevelsDriven := by
  unfold emit attempt
  split
  · exact h.drivePins he
  · exact h.drivePins he
  · show (unsurePins s.linkOpen e s.draws s.pins).LevelsDriven
    rw [hc]
    exact h.unsureLine he _
  · exact h
  · exact h

theorem emit_deviceForm (e : BusEvent) {s : State} (h : s.device.wf s.params = true) :
    (emit e s).state.device.wf (emit e s).state.params = true := by
  unfold emit attempt
  split
  · exact h
  · exact h
  · exact wf_lost h
  · exact h
  · exact h

theorem emit_ok_pins {e : BusEvent} {s t : State} {a : Unit} (h : emit e s = .ok a t) : t.pins = drivePins e s.pins := by
  unfold emit attempt at h
  split at h <;> cases h <;> rfl

theorem emitAll_ok_pins {es : List BusEvent} {s t : State} {a : Unit} (h : emitAll es s = .ok a t) :
    t.pins = es.foldl (fun ps e => drivePins e ps) s.pins := by
  induction es generalizing s with
  | nil => cases h; rfl
  | cons e rest ih =>
    obtain ⟨_, u, hu, ht⟩ := Run.bind_eq_ok h
    rw [ih ht, emit_ok_pins hu, List.foldl_cons]

theorem emit_running_of_closed {e : BusEvent} {s : State} (hs : Running s) (hc : s.linkOpen = false)
    (he : e.Drivable s.pins) : Running (emit e s).state := by
  have hb := emit_busOnly e s
  refine hs.of_busOnly hb (fun ho => ?_) (emit_levelsDriven hc hs.inv.levelsDriven he)
    (emit_step e (hs.inv.runningStep hs.busy)) (emit_deviceForm e hs.inv.deviceForm)
  exact absurd ((hb.linkOpen.trans hc).symm.trans ho) (by decide)

theorem emitAll_running_of_closed {es : List BusEvent} {s : State} (hs : Running s) (hc : s.linkOpen = false)
    (he : DrivableInOrder es s.pins) : Running (emitAll es s).state := by
  induction es generalizing s with
  | nil => exact hs
  | cons e rest ih =>
    have hb := emit_busOnly e s
    have hr := emit_running_of_closed hs hc he.1
    refine Run.state_bind_of_ok hr fun _ t ht => ?_
    rw [ht] at hb hr
    exact ih hr (hb.linkOpen.trans hc) (emit_ok_pins ht ▸ he.2)

/-- OPEN configures the three lines before it drives them (R118). -/
theorem openEvents_drivable (p : Params) (ps : Pins) : DrivableInOrder (openEvents p) ps :=
  ⟨trivial, trivial, trivial, rfl, rfl, rfl, trivial, trivial⟩

/-- OPEN's body keeps the invariant at every event, and opens the link if it completes. -/
theorem openBody_running {s : State} (hs : Running s) :
    Running (openBody s).state ∧ ∀ a t, openBody s = .ok a t → Linked t := by
  unfold openBody
  split
  next ho => exact ⟨hs, fun _ _ h => by cases h; exact ⟨hs, ho⟩⟩
  next ho =>
    have hr := emitAll_running_of_closed hs (by simpa using ho) (openEvents_drivable s.params s.pins)
    have hopened : ∀ t, emitAll (openEvents s.params) s = .ok () t → Linked { t with linkOpen := true } := by
      intro t ht
      rw [ht] at hr
      have hpins := emitAll_ok_pins ht
      refine ⟨⟨{ hr.inv with initializedOpen := fun _ => rfl, openOutputs := fun _ => ?_ }, hr.busy⟩, rfl⟩
      show t.pins.hsA.dir = _ ∧ t.pins.hsB.dir = _ ∧ t.pins.csN.dir = _
      rw [hpins]
      exact ⟨rfl, rfl, rfl⟩
    constructor
    · exact Run.state_bind_of_ok hr fun _ t ht => (hopened t ht).toRunning
    · intro a t h
      obtain ⟨_, u, hu, ht⟩ := Run.bind_eq_ok h
      cases ht
      exact hopened u hu

/-! ## The other bodies -/

theorem closeBody_running {s : State} (hs : Linked s) : Running (closeBody s).state :=
  Run.state_bind (P := Running)
    (hs.of_kept (emitAll_busOnly _ s) (emitAll_formKept (by simp [closeEvents, BusEvent.keepsDirections]) s)).toRunning
    fun _ _ ht =>
      ⟨{ ht.inv with
          session := rfl, initializedOpen := nofun, openOutputs := nofun, geometryLegal := nofun
          deviceForm := wf_closed ht.inv.deviceForm _ }, ht.busy⟩

/-- A step of the exit sequence sets no direction (R125 (1)). -/
theorem leaveEvents_keepDirections (p : Params) : ∀ e ∈ leaveEvents p, e.keepsDirections := by
  intro e he
  obtain ⟨x, -, rfl⟩ := List.mem_map.mp he
  cases x <;> trivial

theorem leaveBody_running {s : State} (hs : Linked s) : Running (leaveBody s).state :=
  Run.state_bind (P := Running)
    (hs.of_kept (emitAll_busOnly _ s) (emitAll_formKept (leaveEvents_keepDirections _) s)).toRunning
    fun _ _ ht =>
      ⟨{ ht.inv with
          session := rfl, initializedOpen := nofun, geometryLegal := nofun
          deviceForm := wf_left ht.inv.deviceForm }, ht.busy⟩

theorem rdregBody_running (a : RegAddr) {s : State} (hs : Linked s) : Running (rdregBody a s).state :=
  Run.state_bind (P := Running) (hs.of_kept (regRead_busOnly a s) (regRead_formKept a s)).toRunning
    fun _ _ ht => ⟨{ ht.inv with }, ht.busy⟩

theorem adoptGeometry_linked (v : Word) {s : State} (hs : Linked s) : Linked (adoptGeometry v s).state := by
  unfold adoptGeometry
  split
  next hg =>
    refine ⟨⟨{ hs.inv with
      session := rfl, initializedOpen := fun _ => hs.linkOpen, geometryLegal := fun g' h => ?_ }, hs.busy⟩, hs.linkOpen⟩
    obtain rfl := Option.some.inj h
    exact decodeGeometry_legal hg
  · exact ⟨⟨{ hs.inv with session := rfl, initializedOpen := nofun, geometryLegal := nofun }, hs.busy⟩, hs.linkOpen⟩

theorem showCachedRaw_running {s : State} (hs : Running s) : Running s.showCachedRaw := by
  unfold State.showCachedRaw
  split
  · exact ⟨{ hs.inv with }, hs.busy⟩
  · exact hs

theorem initBody_running {s : State} (hs : Running s) : Running (initBody s).state := by
  obtain ⟨hr, hopened⟩ := openBody_running hs
  unfold initBody
  split
  · exact showCachedRaw_running hs
  · refine Run.state_bind_of_ok hr fun a t ht => Linked.toRunning ?_
    exact Run.state_bind ((hopened a t ht).of_kept (enterBody_busOnly t) (enterBody_formKept t)) fun _ t ht =>
      Run.state_bind (ht.of_kept (regRead_busOnly _ t) (regRead_formKept _ t)) fun _ t ht =>
        Run.state_bind (ht.of_kept (regRead_busOnly _ t) (regRead_formKept _ t)) fun v _ ht =>
          adoptGeometry_linked v ht

/-! ## SB through RDSEC -/

/-- SB keeps its form through a bus operation. -/
theorem BusOnly.sbWf {s t : State} (h : BusOnly s t) (hs : sbWf s.sb = true) : sbWf t.sb = true := h.sb ▸ hs

/-- The word loop writes inside SB: its `n` words from word `i` on are words of a sector (R169). -/
theorem readWords_sbWf (n i : Nat) {s : State} (hs : sbWf s.sb = true) (hi : i + n ≤ sectorWords) :
    sbWf (readWords n i s).state.sb = true := by
  induction n generalizing i s with
  | zero => exact hs
  | succ n ih =>
    exact Run.state_bind (P := fun t => sbWf t.sb = true) ((regWrite_busOnly _ _ _).sbWf hs) fun _ t ht =>
      Run.state_bind (P := fun t => sbWf t.sb = true) ((regRead_busOnly _ t).sbWf ht) fun w _ ht =>
        ih (i + 1) (sbWf_putWord ht (by omega) w) (by omega)

theorem rdsecBody_sbWf (lba : Word) {s : State} (hs : sbWf s.sb = true) : sbWf (rdsecBody lba s).state.sb = true :=
  Run.state_bind (P := fun t => sbWf t.sb = true) ((clearStatus_busOnly s).sbWf hs) fun _ t ht =>
    Run.state_bind (P := fun t => sbWf t.sb = true) ((regWrite_busOnly _ _ t).sbWf ht) fun _ t ht =>
      Run.state_bind (P := fun t => sbWf t.sb = true) ((regWrite_busOnly _ _ t).sbWf ht) fun _ t ht =>
        Run.state_bind (P := fun t => sbWf t.sb = true) ((waitReady_busOnly _ t).sbWf ht) fun _ t ht =>
          Run.state_bind (P := fun t => sbWf t.sb = true) ((regWrite_busOnly _ _ t).sbWf ht) fun _ _ ht =>
            readWords_sbWf _ _ ht (Nat.le_refl _)

/-- RDSEC is a bus operation on a block whose SB already holds what it writes. -/
theorem rdsec_running (lba : Word) {s : State} (hs : Linked s) : Running (bodyOf (.rdsec lba) s).state := by
  have hsb : sbWf (bodyOf (.rdsec lba) s).state.sb = true := by
    obtain ⟨-, m, k, h, hm⟩ := loseSB_state (rdsecBody lba s)
    rw [bodyOf, h]
    exact hm (rdsecBody_sbWf lba hs.inv.sbForm)
  have hf := bodyOf_formKept (i := .rdsec lba) nofun nofun s
  have hwritten : Linked { s with sb := (bodyOf (.rdsec lba) s).state.sb } :=
    ⟨⟨{ hs.inv with sbForm := hsb }, hs.busy⟩, hs.linkOpen⟩
  exact (hwritten.of_kept (bodyOf_changesOnly (.rdsec lba) s) { hf with }).toRunning

/-! ## Every body, every conclusion, every step -/

/-- Every body whose precondition held keeps the invariant, wherever it stops. -/
theorem bodyOf_running {i : Instr} {s : State} (hs : Running s) (hready : ready i s = true) :
    Running (bodyOf i s).state := by
  have hlinked : i ≠ .openLink → i ≠ .init → Linked s :=
    fun h1 h2 => ⟨hs, linkOpen_of_ready hs.inv hready h1 h2⟩
  have hbus : i ≠ .openLink → i ≠ .init → withWritten i s (bodyOf i s).state = s → Running (bodyOf i s).state := by
    intro h1 h2 hw
    have hb : BusOnly _ _ := bodyOf_changesOnly i s
    rw [hw] at hb
    exact ((hlinked h1 h2).of_kept hb (bodyOf_formKept h1 h2 s)).toRunning
  cases i with
  | openLink => exact (openBody_running hs).1
  | init => exact initBody_running hs
  | closeLink => exact closeBody_running (hlinked nofun nofun)
  | leave => exact leaveBody_running (hlinked nofun nofun)
  | rdreg a => exact rdregBody_running a (hlinked nofun nofun)
  | rdsec lba => exact rdsec_running lba (hlinked nofun nofun)
  | enter | wrreg | wrsec | erase | spiRd | spiWr => exact hbus nofun nofun rfl

theorem State.Inv.finish {s : State} (hs : s.Inv) {code : Byte} (h : code ∈ resultCodes) : (s.finish code).Inv :=
  { hs with
    resultLegal := fun _ hr => Option.some.inj hr ▸ h
    idleStep := fun _ => rfl
    runningStep := fun h => absurd rfl h }

/-- The code of an error is one of R200's. -/
theorem Error.code_mem (e : Error) : e.code ∈ resultCodes := by
  cases e with
  | timeout stage => cases stage <;> decide
  | invalidGeometry => decide
  | transportFailure => decide

theorem State.Inv.raise {s : State} (hs : s.Inv) (e : Error) : (s.raise e).Inv := { hs.finish e.code_mem with }

theorem concludeOn_inv (p : Port) {r : Run Unit} (h : r.state.Inv) : (concludeOn p r).Inv := by
  cases r with
  | ok a s =>
    cases p with
    | request => exact h.finish (by decide)
    | link => exact { (h : s.Inv) with idleStep := fun _ => rfl, runningStep := fun h => absurd rfl h }
  | ended w s =>
    cases w with
    | raised e => cases p <;> exact State.Inv.raise h e
    | abandoned => cases p <;> exact State.Inv.hardReset h
    | hung => cases p <;> exact h

theorem State.Inv.refuse {s : State} (hs : s.Inv) (hidle : s.seq = .idle) (reason : RefuseReason) :
    (s.refuse reason).Inv :=
  { hs with
    resultLegal := fun _ hr => Option.some.inj hr ▸ by decide
    runningStep := fun h => absurd hidle h }

/-- Every instruction that an idle block runs or refuses keeps the invariant. -/
theorem exec_inv {i : Instr} {s t : State} (hs : s.Inv) (hidle : s.seq = .idle) (h : exec i s = .next t) : t.Inv := by
  obtain ⟨reason, rfl⟩ | ⟨-, hready, rfl⟩ := exec_cases h
  · exact hs.refuse hidle reason
  · have hbegin : ready i (s.begin i) = true := by cases i <;> exact hready
    exact concludeOn_inv _ (bodyOf_running (.begin hs i) hbegin).inv

theorem presentRequest_inv {q : RequestWord} {s t : State} (hs : s.Inv) (hidle : s.seq = .idle)
    (h : presentRequest q s = .next t) : t.Inv := by
  unfold presentRequest at h
  split at h
  · cases h
    exact hs.refuse hidle _
  · split at h
    · exact exec_inv hs hidle h
    · cases h
      exact hs.refuse hidle _

theorem presentFrame_inv {tx : List Byte} {s t : State} (hs : s.Inv) (hidle : s.seq = .idle)
    (h : presentFrame tx s = .next t) : t.Inv := by
  unfold presentFrame at h
  split at h
  · exact exec_inv hs hidle h
  · cases h
  · cases h

theorem hostLoadSB_inv {off : Nat} {bytes : List Byte} {s t : State} (hs : s.Inv)
    (h : hostLoadSB off bytes s = .next t) : t.Inv := by
  unfold hostLoadSB at h
  split at h
  next hin =>
    cases h
    exact { hs with sbForm := sbWf_writeBytes hs.sbForm off bytes hin }
  · cases h

/-- What the host has read is not the block's. -/
theorem State.Inv.seen {s : State} (hs : s.Inv) (x : Option Seen) : { s with seen := x }.Inv := { hs with }

/-- A move that needs an idle block is made on one. -/
theorem whileIdle_next {s t : State} {move : State → Host.Outcome State Fault Refusal}
    (h : whileIdle s move = .next t) : s.seq = .idle ∧ move s = .next t := by
  unfold whileIdle at h
  split at h
  · cases h
  next hb => exact ⟨by simpa [State.busy] using hb, h⟩

theorem serveInput_inv {i : Input} {s t : State} (hs : s.Inv) (h : serveInput i s = .next t) : t.Inv := by
  cases i with
  | request q => exact (whileIdle_next h).elim (presentRequest_inv hs)
  | frame tx => exact (whileIdle_next h).elim (presentFrame_inv hs)
  | loadSB off bytes => exact hostLoadSB_inv hs (whileIdle_next h).2
  | readSB off n =>
    have hread := (whileIdle_next h).2
    unfold hostReadSB at hread
    split at hread
    · split at hread
      · cases hread
        exact hs.seen _
      · cases hread
    · cases hread
  | readStat =>
    cases h
    exact hs.seen _
  | readResult | readValue | readGeometry =>
    simp only [serveInput, hostReadResult, hostReadValue, hostReadGeometry] at h
    split at h
    · cases h
      exact hs.seen _
    · cases h
  | rst =>
    cases h
    exact hs.hardReset

/-- Settles O51: every input that is served keeps the invariant, and so does waiting. -/
theorem stepKeepsInvariant : Obligations.StepKeepsInvariant := by
  intro s t hs h
  unfold step at h
  split at h
  · obtain ⟨-, hwait⟩ := whileIdle_next h
    cases hwait
    exact hs
  next rest _ => exact serveInput_inv (s := { s with inputs := rest }) { hs with } h

end Sys2Proof.Machine
end

section
/-! PROOFS. Values and frames on the wire: what the codec, the frames and the decoder of frames undo of one another. -/

namespace Sys2Proof.Machine

/-- `rev8` is its own inverse (R102). -/
theorem rev8_rev8 (b : Byte) : rev8 (rev8 b) = b := by
  revert b
  decide

/-- `le32` undoes `leBytes` (R12): bit `i` of the word comes from byte `i / 8`. -/
theorem le32_leBytes (v : Word) :
    le32 (v.extractLsb' 0 8) (v.extractLsb' 8 8) (v.extractLsb' 16 8) (v.extractLsb' 24 8) = v := by
  refine BitVec.eq_of_getLsbD_eq fun i hi => ?_
  simp only [le32, BitVec.getLsbD_or, BitVec.getLsbD_shiftLeft, BitVec.getLsbD_setWidth, BitVec.getLsbD_extractLsb']
  obtain h | h | h | h : i < 8 ∨ (8 ≤ i ∧ i < 16) ∨ (16 ≤ i ∧ i < 24) ∨ (24 ≤ i ∧ i < 32) := by omega
  all_goals grind

/-- The value of a write frame is the value written (R92). -/
theorem writeFrameValue_writeFrame (a : RegAddr) (v : Word) : writeFrameValue (writeFrame a v) = v := by
  simp [writeFrameValue, writeFrame, leBytes, byteAt, rev8_rev8, le32_leBytes]

/-- The value of a reply is in its bytes 2 to 5 (R57, R91). -/
theorem replyValue_cons (x y : Byte) (v : Word) : replyValue (x :: y :: (leBytes v).map rev8) = v := by
  simp [replyValue, leBytes, byteAt, rev8_rev8, le32_leBytes]

/-- The value the reference device puts into a reply is the value the block reads (R77). -/
@[simp] theorem replyValue_readReply (v : Word) : replyValue (readReply v) = v := replyValue_cons 0 0 v

/-- Settles O7. -/
theorem valueCrossesTheWire : Obligations.ValueCrossesTheWire :=
  fun v a x y => ⟨writeFrameValue_writeFrame a v, replyValue_cons x y v⟩

/-- A header carries its type and its register (R90). -/
theorem frameHeader_fields (a : RegAddr) :
    headerType (frameHeader a typeRead) = 1 ∧ headerReg (frameHeader a typeRead) = a ∧
      headerType (frameHeader a typeWrite) = 2 ∧ headerReg (frameHeader a typeWrite) = a := by
  revert a
  decide

/-- A read frame decodes to the read it was built from (R91). -/
theorem decodeFrame_readFrame (turnaround : Byte) (a : RegAddr) :
    decodeFrame (readFrame turnaround a) = .ok (.spiRd a) := by
  obtain ⟨htype, hreg, -, -⟩ := frameHeader_fields a
  have h0 : rev8 (byteAt (readFrame turnaround a) 0) = frameHeader a typeRead := rev8_rev8 _
  simp [decodeFrame, h0, htype, hreg, readFrame_length]

/-- A write frame decodes to the write it was built from (R92). -/
theorem decodeFrame_writeFrame (a : RegAddr) (v : Word) : decodeFrame (writeFrame a v) = .ok (.spiWr a v) := by
  obtain ⟨-, -, htype, hreg⟩ := frameHeader_fields a
  have h0 : rev8 (byteAt (writeFrame a v) 0) = frameHeader a typeWrite := rev8_rev8 _
  simp [decodeFrame, h0, htype, hreg, writeFrame_length, writeFrameValue_writeFrame]

end Sys2Proof.Machine
end

section
/-! PROOFS. The reference device (R75 to R80): what each command does to it, and what a device that is never made busy
answers. -/

namespace Sys2Proof.Machine

/-! ## Registers and commands -/

/-- A register read after a register write. -/
theorem Rdm.regAt_setReg {r : Rdm} (h : r.reg.length = 64) (a b : RegAddr) (v : Word) :
    (r.setReg a v).regAt b = if b = a then v else r.regAt b := by
  have ha : a.toNat < r.reg.length := h ▸ a.isLt
  have hab : b = a ↔ a.toNat = b.toNat := ⟨fun e => e ▸ rfl, fun e => BitVec.eq_of_toNat_eq e.symm⟩
  simp only [Rdm.regAt, Rdm.setReg, List.getD_eq_getElem?_getD, List.getElem?_set, hab]
  split
  · simp
  · rfl

/-- Remembering keeps the last value and drops what is older (R79). -/
theorem Rdm.hist_remember (r : Rdm) (v : Word) :
    (r.remember v).hist = r.hist.drop (r.hist.length - 1) ++ [v] :=
  List.drop_append_of_le_length (by omega)

/-- The two values remembered last are the history (R79). -/
theorem Rdm.hist_remember_remember (r : Rdm) (u v : Word) : ((r.remember u).remember v).hist = [u, v] := by
  rw [Rdm.hist_remember, Rdm.hist_remember r u, List.length_append, List.length_singleton, Nat.add_sub_cancel,
    List.drop_left]
  rfl

/-- The command `v` finds its erase history and the enable bit: case (1) of R79. -/
def Rdm.Erases (p : Params) (r : Rdm) (v : Word) : Prop :=
  v = p.cmdEExec ∧ r.hist = [p.cmdEUnlock, p.cmdEConfirm] ∧ r.regAt p.regConfig &&& p.weMask ≠ 0

/-- The command `v` finds its write history and the enable bit, and is no erase: case (2) of R79. -/
def Rdm.Programs (p : Params) (r : Rdm) (v : Word) : Prop :=
  ¬r.Erases p v ∧ v = p.cmdWExec ∧ r.hist = [p.cmdWUnlock, p.cmdWConfirm] ∧ r.regAt p.regConfig &&& p.weMask ≠ 0

/-- The cases of R79 after the two execute commands; none of them writes the array. -/
def Rdm.bufferCommand (p : Params) (r : Rdm) (v : Word) : Rdm :=
  if v = p.cmdRead then { r with pb := r.sector (r.addressedSector p), busyLeft := r.busy }
  else if v = p.cmdNull then r.nullCommand
  else if v = p.cmdWPulse then r.writePulse
  else r

section
variable {p : Params} {r : Rdm} {v : Word}

theorem Rdm.erases_iff : r.Erases p v ↔
    v = p.cmdEExec ∧ r.hist = [p.cmdEUnlock, p.cmdEConfirm] ∧ r.writeEnabled p = true := by
  simp [Rdm.Erases, Rdm.writeEnabled]

theorem Rdm.command_of_erases (h : r.Erases p v) : r.command p v =
    ({ r.eraseBlock (r.sectorsPerBlock p) (r.addressedSector p) with busyLeft := r.busy } : Rdm).remember v := by
  simp only [Rdm.command, if_pos (Rdm.erases_iff.mp h)]

theorem Rdm.command_of_programs (h : r.Programs p v) : r.command p v =
    ({ r.program (r.addressedSector p) with busyLeft := r.busy } : Rdm).remember v := by
  obtain ⟨hne, hv, hhist, hwe⟩ := h
  rw [Rdm.erases_iff] at hne
  have hwe' : r.writeEnabled p = true := by simpa [Rdm.writeEnabled] using hwe
  simp only [Rdm.command, if_neg hne, if_pos (show _ ∧ _ ∧ _ from ⟨hv, hhist, hwe'⟩)]

theorem Rdm.command_of_neither (h1 : ¬r.Erases p v) (h2 : ¬r.Programs p v) :
    r.command p v = (r.bufferCommand p v).remember v := by
  have h2' : ¬(v = p.cmdWExec ∧ r.hist = [p.cmdWUnlock, p.cmdWConfirm] ∧ r.writeEnabled p = true) := by
    simpa [Rdm.Programs, h1, Rdm.writeEnabled] using h2
  rw [Rdm.erases_iff] at h1
  simp only [Rdm.command, if_neg h1, if_neg h2', Rdm.bufferCommand]

/-- What a command can do (R79): erase, program, or one of the cases that only move the page buffer. -/
theorem Rdm.command_cases (p : Params) (r : Rdm) (v : Word) :
    (r.Erases p v ∧ r.command p v =
      ({ r.eraseBlock (r.sectorsPerBlock p) (r.addressedSector p) with busyLeft := r.busy } : Rdm).remember v) ∨
    (r.Programs p v ∧ r.command p v =
      ({ r.program (r.addressedSector p) with busyLeft := r.busy } : Rdm).remember v) ∨
    (¬r.Erases p v ∧ ¬r.Programs p v ∧ r.command p v = (r.bufferCommand p v).remember v) := by
  by_cases h1 : r.Erases p v
  · exact .inl ⟨h1, Rdm.command_of_erases h1⟩
  · by_cases h2 : r.Programs p v
    · exact .inr (.inl ⟨h2, Rdm.command_of_programs h2⟩)
    · exact .inr (.inr ⟨h1, h2, Rdm.command_of_neither h1 h2⟩)

end

/-! ## What a command leaves alone -/

/-- `r'` has the registers, the mode and the parameters of `r`, and is busy only if `r` was or is made so. -/
structure Rdm.SameForm (r r' : Rdm) : Prop where
  reg : r'.reg = r.reg
  fm : r'.fm = r.fm
  firstCfg : r'.firstCfg = r.firstCfg
  busy : r'.busy = r.busy
  busyScript : r'.busyScript = r.busyScript
  erased : r'.erased = r.erased
  busyLeft : r'.busyLeft = r.busyLeft ∨ r'.busyLeft = r.busy

theorem Rdm.sameForm_writePulse (r : Rdm) : r.SameForm r.writePulse ∧ r.writePulse.array = r.array := by
  have hleft : r.writePulse.busyLeft = r.busyLeft ∨ r.writePulse.busyLeft = r.busy := by
    show (if _ then _ else _) = _ ∨ (if _ then _ else _) = _
    split
    · exact .inr rfl
    · exact .inl rfl
  unfold Rdm.writePulse at hleft ⊢
  by_cases h : r.ptr + 4 ≤ sectorBytes
  · simp only [if_pos h] at hleft ⊢
    exact ⟨⟨rfl, rfl, rfl, rfl, rfl, rfl, hleft⟩, trivial⟩
  · simp only [if_neg h] at hleft ⊢
    exact ⟨⟨rfl, rfl, rfl, rfl, rfl, rfl, hleft⟩, trivial⟩

theorem Rdm.sameForm_bufferCommand (p : Params) (r : Rdm) (v : Word) :
    r.SameForm (r.bufferCommand p v) ∧ (r.bufferCommand p v).array = r.array := by
  unfold Rdm.bufferCommand
  split
  · exact ⟨⟨rfl, rfl, rfl, rfl, rfl, rfl, .inr rfl⟩, rfl⟩
  · split
    · unfold Rdm.nullCommand
      split <;> exact ⟨⟨rfl, rfl, rfl, rfl, rfl, rfl, .inl rfl⟩, rfl⟩
    · split
      · exact Rdm.sameForm_writePulse r
      · exact ⟨⟨rfl, rfl, rfl, rfl, rfl, rfl, .inl rfl⟩, rfl⟩

/-- Writing a sector, and being made busy, is no change of form. -/
theorem Rdm.sameForm_setSector (r : Rdm) (t : Nat) (bs : List Byte) (v : Word) :
    r.SameForm (({ r.setSector t bs with busyLeft := r.busy } : Rdm).remember v) :=
  ⟨rfl, rfl, rfl, rfl, rfl, rfl, .inr rfl⟩

/-- No command writes a register or the device's mode (R79 (6)). -/
theorem Rdm.sameForm_command (p : Params) (r : Rdm) (v : Word) : r.SameForm (r.command p v) := by
  obtain ⟨-, h⟩ | ⟨-, h⟩ | ⟨-, -, h⟩ := Rdm.command_cases p r v <;> rw [h]
  · exact ⟨rfl, rfl, rfl, rfl, rfl, rfl, .inr rfl⟩
  · exact Rdm.sameForm_setSector r _ _ v
  · exact { (Rdm.sameForm_bufferCommand p r v).1 with }

/-! ## The array -/

/-- The bytes of the array are the array's and the erased byte's. -/
theorem Rdm.arrayByte_congr {r r' : Rdm} (h1 : r'.array = r.array) (h2 : r'.erased = r.erased) (t j : Nat) :
    r'.arrayByte t j = r.arrayByte t j := by
  rw [Rdm.arrayByte, h1, h2, Rdm.arrayByte]

/-- Being made busy and remembering a command leave the array alone. -/
theorem Rdm.arrayByte_busy_remember (r : Rdm) (n : Nat) (v : Word) (t j : Nat) :
    (({ r with busyLeft := n } : Rdm).remember v).arrayByte t j = r.arrayByte t j :=
  Rdm.arrayByte_congr rfl rfl t j

/-- Erasing sets the bytes of the block's sectors and no others (R79 (1)). -/
theorem Rdm.arrayByte_eraseBlock (r : Rdm) (spb s t : Nat) {j : Nat} (hj : j < sectorBytes) :
    (r.eraseBlock spb s).arrayByte t j = if t / spb = s / spb then r.erased else r.arrayByte t j := by
  have hsector : (t * sectorBytes + j) / sectorBytes = t := by
    change j < 528 at hj
    change (t * 528 + j) / 528 = t
    omega
  simp only [Rdm.arrayByte, Rdm.eraseBlock, Memory.readOr, Memory.read_remove, hsector, beq_iff_eq]
  split <;> rfl

/-- Programming ands the page buffer into one sector (R79 (2)). -/
theorem Rdm.arrayByte_program {r : Rdm} (h : Memory.wf r.array = true) (s t : Nat) {j : Nat} (hj : j < sectorBytes) :
    (r.program s).arrayByte t j = if t = s then r.arrayByte s j &&& byteAt r.pb j else r.arrayByte t j := by
  simp only [Rdm.program, Rdm.setSector, Rdm.arrayByte, Memory.readOr_writeBytesOr _ _ h, List.length_map,
    List.length_range]
  by_cases hts : t = s
  · subst hts
    rw [if_pos (by omega), if_pos rfl, Nat.add_sub_cancel_left]
    simp [List.getD_eq_getElem?_getD, hj]
  · have hout : ¬(s * sectorBytes ≤ t * sectorBytes + j ∧ t * sectorBytes + j < s * sectorBytes + sectorBytes) := by
      change j < 528 at hj
      change ¬(s * 528 ≤ t * 528 + j ∧ t * 528 + j < s * 528 + 528)
      omega
    rw [if_neg hout, if_neg hts]

/-- Settles O59, from the three cases of a command. -/
theorem referenceDeviceArrayWrites : Obligations.ReferenceDeviceArrayWrites := by
  intro p r v hwf s spb erases programs
  obtain ⟨-, -, harray, -, -⟩ := (Rdm.wf_iff p r).mp hwf
  have hE : erases = r.Erases p v := rfl
  have hP : programs = r.Programs p v := rfl
  rw [hE, hP]
  refine ⟨(Rdm.sameForm_command p r v).reg, fun t j hj => ?_⟩
  obtain ⟨h, e⟩ | ⟨h, e⟩ | ⟨h1, h2, e⟩ := Rdm.command_cases p r v
  · have hbyte : (r.command p v).arrayByte t j = if t / spb = s / spb then r.erased else r.arrayByte t j := by
      rw [e, Rdm.arrayByte_busy_remember]
      exact Rdm.arrayByte_eraseBlock r spb s t hj
    rw [hbyte]
    refine ⟨fun h' => if_pos h'.2, fun h' => absurd h h'.1.1, fun h' => if_neg fun ht => h'.1 ⟨h, ht⟩⟩
  · have hbyte : (r.command p v).arrayByte t j =
        if t = s then r.arrayByte s j &&& byteAt r.pb j else r.arrayByte t j := by
      rw [e, Rdm.arrayByte_busy_remember]
      exact Rdm.arrayByte_program harray s t hj
    rw [hbyte]
    exact ⟨fun h' => absurd h'.1 h.1, fun h' => h'.2 ▸ if_pos rfl, fun h' => if_neg fun ht => h'.2 ⟨h, ht⟩⟩
  · have hbyte : (r.command p v).arrayByte t j = r.arrayByte t j := by
      obtain ⟨hform, hsame⟩ := Rdm.sameForm_bufferCommand p r v
      rw [e]
      exact Rdm.arrayByte_congr hsame hform.erased t j
    exact ⟨fun h' => absurd h'.1 h1, fun h' => absurd h'.1 h2, fun _ => hbyte⟩

/-! ## A device that is never busy -/

/-- The five parts of being never busy. -/
theorem Rdm.quiet_iff (r : Rdm) : r.quiet = true ↔
    r.fm = true ∧ r.firstCfg = false ∧ r.busy = 0 ∧ r.busyLeft = 0 ∧ r.busyScript = [] := by
  simp [Rdm.quiet, and_assoc]

theorem Rdm.SameForm.quiet {r r' : Rdm} (h : r.SameForm r') (hq : r.quiet = true) : r'.quiet = true := by
  rw [Rdm.quiet_iff] at hq ⊢
  obtain ⟨hfm, hfirst, hbusy, hleft, hscript⟩ := hq
  refine ⟨h.fm.trans hfm, h.firstCfg.trans hfirst, h.busy.trans hbusy, ?_, h.busyScript.trans hscript⟩
  obtain h' | h' := h.busyLeft
  · exact h'.trans hleft
  · exact h'.trans hbusy

/-- No register write makes it busy (R78). -/
theorem Rdm.quiet_writeReg {r : Rdm} (h : r.quiet = true) (p : Params) (a : RegAddr) (v : Word) :
    (r.writeReg p a v).quiet = true := by
  unfold Rdm.writeReg
  split
  · exact h
  · split
    · exact (Rdm.sameForm_command p r v).quiet h
    · split
      · split <;> exact h
      · split <;> exact h

section
variable {r : Rdm} (hq : r.quiet = true) (p : Params)
include hq

/-- A read leaves it as it was. -/
theorem Rdm.readReg_snd_of_quiet (a : RegAddr) : (r.readReg p a).2 = r := by
  obtain ⟨-, hfirst, -, hleft, hscript⟩ := (Rdm.quiet_iff r).mp hq
  have hpoll : r.pollBusy = (false, r) := by simp [Rdm.pollBusy, hscript, hleft]
  have hsee : r.seeConfigRead p a = r := by
    unfold Rdm.seeConfigRead
    split
    · rw [← hfirst]
    · rfl
  simp only [Rdm.readReg, hfirst, hpoll, hsee]
  split
  · rfl
  · split
    · rfl
    · split <;> rfl

/-- Its status shows ready (R77). -/
theorem Rdm.readReg_status_of_quiet :
    (r.readReg p p.regStatus).1 = r.regAt p.regStatus &&& ~~~p.busyMask := by
  obtain ⟨-, hfirst, -, hleft, hscript⟩ := (Rdm.quiet_iff r).mp hq
  simp [Rdm.readReg, hfirst, Rdm.pollBusy, hscript, hleft]

theorem Rdm.status_ready_of_quiet : (r.readReg p p.regStatus).1 &&& p.busyMask = 0 := by
  rw [Rdm.readReg_status_of_quiet hq, BitVec.and_assoc, BitVec.and_comm (~~~_), BitVec.and_not_self]
  exact BitVec.and_zero

/-- It answers a read frame with the register's value, and stays as it was (R77). -/
theorem Rdm.transact_readFrame (turnaround : Byte) (a : RegAddr) :
    r.transact p (readFrame turnaround a) = (readReply (r.readReg p a).1, r) := by
  have hfm := ((Rdm.quiet_iff r).mp hq).1
  simp [Rdm.transact, hfm, decodeFrame_readFrame, Rdm.readReg_snd_of_quiet hq]

/-- It does the register write of a write frame (R78). -/
theorem Rdm.transact_writeFrame (a : RegAddr) (v : Word) :
    (r.transact p (writeFrame a v)).2 = r.writeReg p a v := by
  have hfm := ((Rdm.quiet_iff r).mp hq).1
  simp [Rdm.transact, hfm, decodeFrame_writeFrame]

/-- Whatever it is sent, it is never busy. -/
theorem Rdm.quiet_transact (tx : List Byte) : (r.transact p tx).2.quiet = true := by
  unfold Rdm.transact
  split
  · split
    · exact (Rdm.readReg_snd_of_quiet hq p _).symm ▸ hq
    · exact Rdm.quiet_writeReg hq p _ _
    · exact hq
  · exact hq

end

/-- Settles O58, by induction on the number of transfers. -/
theorem quietReferenceDeviceIsReady : Obligations.QuietReferenceDeviceIsReady := by
  intro p r n k hq
  induction n generalizing r with
  | zero => trivial
  | succ n ih =>
    intro tx _
    refine ⟨?_, ih _ (Rdm.quiet_transact hq p tx)⟩
    rintro rfl
    simp only [Device.respond, Rdm.transact_readFrame hq p, replyValue_readReply]
    exact Rdm.status_ready_of_quiet hq p

end Sys2Proof.Machine
end

section
/-! PROOFS. Requests that move no handshake line are built from bus events with nothing of the block in between but
latches and SB. What such a part does is proved once, by induction on how it is built. -/

namespace Sys2Proof.Machine

/-! ## How the parts of a request are built -/

/-- A part of a request that is built from transfers and other bus events, reads only the parameters, SB and the
geometry, writes only latches and SB, and raises only timeouts. -/
inductive Transactional : {α : Type} → (State → Run α) → Prop
  | ok {α : Type} (a : α) : Transactional fun s => .ok a s
  | timeout {α : Type} (stage : Stage) : Transactional (α := α) fun s => .ended (.raised (.timeout stage)) s
  | emit (e : BusEvent) (h : transfersOf [e] = []) : Transactional (emit e)
  | xfer (tx : List Byte) : Transactional (xfer tx)
  | bind {α β : Type} {f : State → Run α} {g : α → State → Run β} (hf : Transactional f)
      (hg : ∀ a, Transactional (g a)) : Transactional fun s => (f s).bind g
  | latch {α : Type} {f : State → Run α} (l : Latches → Latches) (hf : Transactional f) :
      Transactional fun s => f { s with latches := l s.latches }
  | store {α : Type} {f : State → Run α} (m : Memory → Memory) (hf : Transactional f) :
      Transactional fun s => f { s with sb := m s.sb }
  | reads {α : Type} (f : Params → Memory → Option FlashGeometry → State → Run α)
      (hf : ∀ p m g, Transactional (f p m g)) : Transactional fun s => f s.params s.sb s.geometry s

/-- A part that reads parameters only. -/
theorem Transactional.readsParams {α : Type} (f : Params → State → Run α) (hf : ∀ p, Transactional (f p)) :
    Transactional fun s => f s.params s :=
  .reads (fun p _ _ => f p) fun p _ _ => hf p

theorem transact_transactional (tx : List Byte) : Transactional (transact tx) :=
  .bind (.emit _ rfl) fun _ => .bind (.readsParams (fun p => emit (.delay p.tSettle)) fun _ => .emit _ rfl) fun _ =>
    .bind (.xfer tx) fun rx => .bind (.emit _ rfl) fun _ => .ok rx

theorem regRead_transactional (a : RegAddr) : Transactional (regRead a) :=
  .bind (.readsParams (fun p => transact (readFrame p.turnaround a)) fun _ => transact_transactional _) fun rx =>
    .ok (replyValue rx)

theorem regWrite_transactional (a : RegAddr) (v : Word) : Transactional (regWrite a v) :=
  .bind (transact_transactional _) fun _ => .ok ()

/-- A register whose address is a parameter is read. -/
theorem readParam_transactional (a : Params → RegAddr) : Transactional fun s => regRead (a s.params) s :=
  .readsParams (fun p => regRead (a p)) fun _ => regRead_transactional _

/-- A register whose address is a parameter is written, with a value that may depend on the parameters. -/
theorem writeParam_transactional (a : Params → RegAddr) (v : Params → Word) :
    Transactional fun s => regWrite (a s.params) (v s.params) s :=
  .readsParams (fun p => regWrite (a p) (v p)) fun _ => regWrite_transactional _ _

theorem setAddress_transactional (lba : Word) : Transactional (setAddress lba) :=
  writeParam_transactional Params.regAddress fun _ => sectorAddress lba

theorem resetPointer_transactional : Transactional resetPointer := writeParam_transactional Params.regAddress fun _ => 0

/-- A command whose value is a parameter. -/
theorem commandParam_transactional (v : Params → Word) : Transactional fun s => command (v s.params) s :=
  writeParam_transactional Params.regCommand v

theorem clearStatus_transactional : Transactional clearStatus :=
  .bind (readParam_transactional Params.regStatus) fun st =>
    .readsParams (fun p s => regWrite p.regStatus st (s.hold st)) fun p =>
      .latch (fun l => { l with held := some st }) (regWrite_transactional p.regStatus st)

theorem enableWrite_transactional : Transactional enableWrite :=
  .bind (readParam_transactional Params.regConfig) fun c =>
    .readsParams (fun p s => regWrite p.regConfig (c ||| p.weMask) (s.hold c)) fun p =>
      .latch (fun l => { l with held := some c }) (regWrite_transactional p.regConfig (c ||| p.weMask))

/-- One poll of wait-ready and what follows it: nothing when the device is ready, `next` when it is busy. -/
theorem poll_transactional {next : State → Run Unit} (h : Transactional next) (i : Nat) : Transactional fun s =>
    (regRead s.params.regStatus { s with latches := { s.latches with poll := some i } }).bind fun st s =>
      if st &&& s.params.busyMask = 0 then .ok () s else next s := by
  refine .bind (f := fun s => regRead s.params.regStatus { s with latches := { s.latches with poll := some i } })
    (.latch (fun l => { l with poll := some i }) (readParam_transactional Params.regStatus)) fun st => ?_
  refine .readsParams (fun p s => if st &&& p.busyMask = 0 then .ok () s else next s) fun p => ?_
  by_cases hready : st &&& p.busyMask = 0
  · simpa only [if_pos hready] using .ok ()
  · simpa only [if_neg hready] using h

theorem pollLoop_transactional (stage : Stage) (i left : Nat) : Transactional (pollLoop stage i left) := by
  induction left generalizing i with
  | zero => exact .timeout stage
  | succ left ih =>
    cases left with
    | zero => exact poll_transactional (.timeout stage) i
    | succ left =>
      refine poll_transactional
        (next := fun s => (emit (.delay s.params.tPoll) s).bind fun _ s => pollLoop stage (i + 1) (left + 1) s) ?_ i
      exact .bind (.readsParams (fun p => emit (.delay p.tPoll)) fun _ => .emit _ rfl) fun _ => ih (i + 1)

theorem waitReady_transactional (stage : Stage) : Transactional (waitReady stage) :=
  .readsParams (fun p => pollLoop stage 1 p.pollMax) fun _ => pollLoop_transactional stage 1 _

theorem eraseBody_transactional (lba : Word) : Transactional (eraseBody lba) :=
  .bind clearStatus_transactional fun _ => .bind enableWrite_transactional fun _ =>
    .bind (setAddress_transactional lba) fun _ => .bind (commandParam_transactional Params.cmdEUnlock) fun _ =>
      .bind (commandParam_transactional Params.cmdEConfirm) fun _ =>
        .bind (commandParam_transactional Params.cmdEExec) fun _ => waitReady_transactional .erase

theorem eraseFirst_transactional (lba : Word) : Transactional (eraseFirst lba) := by
  refine .reads (fun _ _ g s => if firstOfBlock g lba then eraseBody lba s else .ok () s) fun _ _ g => ?_
  cases firstOfBlock g lba
  · exact .ok ()
  · exact eraseBody_transactional lba

theorem writeWords_transactional (n i : Nat) : Transactional (writeWords n i) := by
  induction n generalizing i with
  | zero => exact .ok ()
  | succ n ih =>
    refine .bind (f := fun s =>
      regWrite s.params.regData (sbWord s.sb i) { s with latches := { s.latches with word := some i } }) ?_
      fun _ => .bind (commandParam_transactional Params.cmdWPulse) fun _ => ih (i + 1)
    exact .reads
      (fun p m _ s => regWrite p.regData (sbWord m i) { s with latches := { s.latches with word := some i } })
      fun p m _ => .latch (fun l => { l with word := some i }) (regWrite_transactional p.regData (sbWord m i))

theorem wrsecBody_transactional (lba : Word) : Transactional (wrsecBody lba) :=
  .bind (eraseFirst_transactional lba) fun _ => .bind clearStatus_transactional fun _ =>
    .bind resetPointer_transactional fun _ => .bind (writeWords_transactional sectorWords 0) fun _ =>
      .bind (waitReady_transactional .writeData) fun _ => .bind (setAddress_transactional lba) fun _ =>
        .bind (waitReady_transactional .writeAddress) fun _ =>
          .bind (commandParam_transactional Params.cmdWUnlock) fun _ =>
            .bind (commandParam_transactional Params.cmdWConfirm) fun _ =>
              .bind (commandParam_transactional Params.cmdWExec) fun _ => waitReady_transactional .writeExecute

theorem readWords_transactional (n i : Nat) : Transactional (readWords n i) := by
  induction n generalizing i with
  | zero => exact .ok ()
  | succ n ih =>
    refine .bind (f := fun s => command s.params.cmdNull { s with latches := { s.latches with word := some i } }) ?_
      fun _ => .bind (readParam_transactional Params.regData) fun w => ?_
    · exact .latch (fun l => { l with word := some i }) (commandParam_transactional Params.cmdNull)
    · exact .store (fun m => sbPutWord m i w) (ih (i + 1))

theorem rdsecBody_transactional (lba : Word) : Transactional (rdsecBody lba) :=
  .bind clearStatus_transactional fun _ => .bind (setAddress_transactional lba) fun _ =>
    .bind (commandParam_transactional Params.cmdRead) fun _ => .bind (waitReady_transactional .read) fun _ =>
      .bind resetPointer_transactional fun _ => readWords_transactional sectorWords 0

/-! ## The request that runs is not looked at -/

/-- Two states of a running request that differ in no field but which request it is and what it has latched. -/
def Alike (s t : State) : Prop := s.seq ≠ .idle ∧ ∃ op l, t = { s with seq := .run op, latches := l }

/-- Two outcomes of a part of a request that are the same up to the state, and alike in that. -/
inductive AlikeRuns {α : Type} : Run α → Run α → Prop
  | ok (a : α) {s t : State} (h : Alike s t) : AlikeRuns (.ok a s) (.ok a t)
  | ended (w : Ending) {s t : State} (h : Alike s t) : AlikeRuns (.ended w s) (.ended w t)

theorem Alike.begin (s : State) (i j : Instr) : Alike (s.begin i) (s.begin j) := ⟨nofun, j, (s.begin j).latches, rfl⟩

theorem AlikeRuns.bind {α β : Type} {r r' : Run α} {g : α → State → Run β} (h : AlikeRuns r r')
    (hg : ∀ a s t, Alike s t → AlikeRuns (g a s) (g a t)) : AlikeRuns (r.bind g) (r'.bind g) := by
  cases h with
  | ok a h => exact hg a _ _ h
  | ended w h => exact .ended w h

/-- A transport action is answered alike in alike states. -/
theorem attempt_alike {α : Type} (e : BusEvent) {s t : State} {done : State → Run α} (h : Alike s t)
    (hd : ∀ s t, Alike s t → AlikeRuns (done s) (done t)) : AlikeRuns (attempt e s done) (attempt e t done) := by
  obtain ⟨hbusy, op, l, rfl⟩ := h
  unfold attempt
  -- the pending answers are those of one state
  simp only []
  split
  · exact hd _ _ ⟨hbusy, op, l, rfl⟩
  · exact hd _ _ ⟨hbusy, op, l, rfl⟩
  · exact .ended _ ⟨hbusy, op, l, rfl⟩
  · exact .ended _ ⟨hbusy, op, l, rfl⟩
  · exact .ended _ ⟨hbusy, op, l, rfl⟩

/-- Such a part of a request does the same in alike states. -/
theorem Transactional.alike {α : Type} {f : State → Run α} (hf : Transactional f) :
    ∀ {s t : State}, Alike s t → AlikeRuns (f s) (f t) := by
  induction hf with
  | ok a => exact .ok a
  | timeout stage => exact .ended _
  | emit e _ =>
    intro s t h
    refine attempt_alike e h fun s t h => ?_
    obtain ⟨hbusy, op, l, rfl⟩ := h
    exact .ok () ⟨hbusy, op, l, rfl⟩
  | xfer tx =>
    intro s t h
    obtain ⟨hbusy, op, l, rfl⟩ := h
    refine attempt_alike _ ⟨hbusy, op, { l with tx := some tx }, rfl⟩ fun s t h => ?_
    obtain ⟨hbusy, op, l, rfl⟩ := h
    exact .ok _ ⟨hbusy, op, { l with rx := some (s.device.respond s.params tx s.draws).bytes }, rfl⟩
  | bind _ _ ihf ihg => exact fun h => (ihf h).bind fun a s t h => ihg a h
  | latch g _ ih =>
    intro s t h
    obtain ⟨hbusy, op, l, rfl⟩ := h
    exact ih ⟨hbusy, op, g l, rfl⟩
  | store m _ ih =>
    intro s t h
    obtain ⟨hbusy, op, l, rfl⟩ := h
    exact ih ⟨hbusy, op, l, rfl⟩
  | reads f _ ih =>
    intro s t h
    obtain ⟨hbusy, op, l, rfl⟩ := h
    exact ih _ _ _ ⟨hbusy, op, l, rfl⟩

/-- The same contents of SB, and the same draws, make alike states alike again. -/
theorem Alike.overwriteSB {s t : State} (h : Alike s t) (m : Memory) (k : Nat) :
    Alike { s with sb := m, draws := k } { t with sb := m, draws := k } := by
  obtain ⟨hbusy, op, l, rfl⟩ := h
  exact ⟨hbusy, op, l, rfl⟩

theorem Alike.draws {s t : State} (h : Alike s t) : t.draws = s.draws := by
  obtain ⟨-, op, l, rfl⟩ := h
  rfl

theorem loseSB_alike {r r' : Run Unit} (h : AlikeRuns r r') : AlikeRuns (loseSB r) (loseSB r') := by
  cases h with
  | ok a h => exact .ok a h
  | ended w h =>
    cases w with
    | raised e =>
      cases e with
      | transportFailure =>
        simp only [loseSB, h.draws]
        exact .ended _ (h.overwriteSB _ _)
      | timeout stage => exact .ended _ h
      | invalidGeometry => exact .ended _ h
    | abandoned => exact .ended _ h
    | hung => exact .ended _ h

/-- What the host and the device can see of how a request ended. -/
structure SameEnd (t u : State) : Prop where
  trace : u.trace = t.trace
  result : u.result = t.result
  sb : u.sb = t.sb
  device : u.device = t.device

theorem SameEnd.all {t u : State} (h : SameEnd t u) :
    u.trace = t.trace ∧ u.result = t.result ∧ u.sb = t.sb ∧ u.device = t.device :=
  ⟨h.trace, h.result, h.sb, h.device⟩

theorem conclude_alike {r r' : Run Unit} (h : AlikeRuns r r') :
    SameEnd (conclude r) (conclude r') := by
  cases h with
  | ok a h =>
    obtain ⟨hbusy, op, l, rfl⟩ := h
    exact ⟨rfl, rfl, rfl, rfl⟩
  | ended w h =>
    obtain ⟨hbusy, op, l, rfl⟩ := h
    cases w with
    | raised e => exact ⟨rfl, rfl, rfl, rfl⟩
    | hung => exact ⟨rfl, rfl, rfl, rfl⟩
    | abandoned =>
      refine ⟨rfl, rfl, rfl, ?_⟩
      simp [conclude, State.busy, hbusy]

/-- Two requests with one precondition whose bodies do the same end the same. -/
theorem exec_alike {i j : Instr} {s t u : State} (hi : i.port = .request) (hj : j.port = .request)
    (hready : ready j s = ready i s) (h : AlikeRuns (bodyOf i (s.begin i)) (bodyOf j (s.begin j)))
    (ht : exec i s = .next t) (hu : exec j s = .next u) : SameEnd t u := by
  rw [exec_eq, Host.Outcome.next.injEq] at ht hu
  rw [hi] at ht
  rw [hj, hready] at hu
  subst ht hu
  split
  · exact ⟨rfl, rfl, rfl, rfl⟩
  · split
    · exact conclude_alike h
    · exact ⟨rfl, rfl, rfl, rfl⟩

/-! ## Two LBAs with one byte address -/

/-- `2^23` sectors of 512 bytes are `2^32` bytes (R47). -/
theorem sectorAddress_add (lba m : Word) : sectorAddress (lba + (m <<< 23)) = sectorAddress lba := by
  refine BitVec.eq_of_toNat_eq ?_
  simp only [sectorAddress, BitVec.toNat_shiftLeft, BitVec.toNat_add, Nat.shiftLeft_eq]
  omega

theorem sectorAddress_toNat (lba : Word) : (sectorAddress lba).toNat = lba.toNat * 512 % 2 ^ 32 := by
  simp only [sectorAddress, BitVec.toNat_shiftLeft, Nat.shiftLeft_eq]

/-- The sectors of an erase block of a legal geometry divide `2^23` (R147), so such LBAs have one place in it. -/
theorem firstOfBlock_add {g : Option FlashGeometry} (hg : ∀ g', g = some g' → g'.legal = true) (lba m : Word) :
    firstOfBlock g (lba + (m <<< 23)) = firstOfBlock g lba := by
  cases g with
  | none => simp only [firstOfBlock]
  | some g =>
    have hlegal := hg g rfl
    have hpages : g.pagesCount = 0x20 ∨ g.pagesCount = 0x100 ∨ g.pagesCount = 0x200 := by
      simp only [FlashGeometry.legal, Bool.and_eq_true] at hlegal
      obtain ⟨⟨⟨-, hpages⟩, -⟩, -⟩ := hlegal
      simpa using hpages
    have hmod : (lba + (m <<< 23)).toNat % g.pagesCount = lba.toNat % g.pagesCount := by
      simp only [BitVec.toNat_shiftLeft, BitVec.toNat_add, Nat.shiftLeft_eq]
      obtain h | h | h := hpages <;> rw [h] <;> omega
    simp only [firstOfBlock, hmod]

section
variable {lba lba' : Word} (haddr : sectorAddress lba' = sectorAddress lba) {s t u : State}
include haddr

theorem setAddress_congr : setAddress lba' = setAddress lba := by
  funext s
  rw [setAddress, haddr, setAddress]

theorem eraseBody_congr : eraseBody lba' = eraseBody lba := by
  funext s
  rw [eraseBody, setAddress_congr haddr, eraseBody]

/-- RDSEC sees no more of an LBA than its byte address. -/
theorem rdsec_sameEnd (ht : exec (.rdsec lba) s = .next t) (hu : exec (.rdsec lba') s = .next u) : SameEnd t u := by
  have hbody : bodyOf (.rdsec lba') = bodyOf (.rdsec lba) := by
    funext s
    simp only [bodyOf, rdsecBody, setAddress_congr haddr]
  refine exec_alike (i := .rdsec lba) (j := .rdsec lba') rfl rfl rfl ?_ ht hu
  rw [hbody]
  exact loseSB_alike ((rdsecBody_transactional lba).alike (.begin s _ _))

/-- ERASE sees no more of an LBA than its byte address. -/
theorem erase_sameEnd (ht : exec (.erase lba) s = .next t) (hu : exec (.erase lba') s = .next u) : SameEnd t u := by
  refine exec_alike (i := .erase lba) (j := .erase lba') rfl rfl rfl ?_ ht hu
  simp only [bodyOf, eraseBody_congr haddr]
  exact (eraseBody_transactional lba).alike (.begin s _ _)

/-- WRSEC sees besides whether the LBA is the first of its erase block. -/
theorem wrsec_sameEnd (hfirst : firstOfBlock s.geometry lba' = firstOfBlock s.geometry lba)
    (ht : exec (.wrsec lba) s = .next t) (hu : exec (.wrsec lba') s = .next u) : SameEnd t u := by
  have hbody : bodyOf (.wrsec lba') (s.begin (.wrsec lba')) = bodyOf (.wrsec lba) (s.begin (.wrsec lba')) := by
    simp only [bodyOf, wrsecBody, eraseFirst, State.begin_geometry, hfirst, eraseBody_congr haddr,
      setAddress_congr haddr]
    rfl
  refine exec_alike (i := .wrsec lba) (j := .wrsec lba') rfl rfl rfl ?_ ht hu
  rw [hbody]
  exact (wrsecBody_transactional lba).alike (.begin s _ _)

end

/-- Settles O38: a body sees of the LBA its byte address, and WRSEC also whether it is the first of its block. -/
theorem lbaWraps : Obligations.LbaWraps := by
  intro lba m s t u
  have haddr := sectorAddress_add lba m
  refine ⟨haddr, ?_, ?_, fun ht hu => (rdsec_sameEnd haddr ht hu).all,
    fun ht hu => (erase_sameEnd haddr ht hu).all,
    fun hs ht hu => (wrsec_sameEnd haddr (firstOfBlock_add hs.geometryLegal lba m) ht hu).all⟩
  · exact BitVec.eq_of_toNat_eq (by rw [sectorAddress_toNat, BitVec.toNat_ofNat])
  · rw [sectorAddress_toNat]
    omega

/-! ## The device answers every transfer -/

/-- Sending transfers and then more is sending them all (R60). -/
theorem Device.respondAll_append (p : Params) (xs ys : List (List Byte)) (d : Device) (k : Nat) :
    Device.respondAll p (xs ++ ys) d k =
      ((Device.respondAll p xs d k).1 ++
          (Device.respondAll p ys (Device.respondAll p xs d k).2.1 (Device.respondAll p xs d k).2.2).1,
        (Device.respondAll p ys (Device.respondAll p xs d k).2.1 (Device.respondAll p xs d k).2.2).2) := by
  induction xs generalizing d k with
  | nil => rfl
  | cons x rest ih => simp only [List.cons_append, Device.respondAll, ih]

theorem transfersOf_append (es es' : List BusEvent) : transfersOf (es ++ es') = transfersOf es ++ transfersOf es' :=
  List.filterMap_append ..

/-- The transfers of the events `es` are answered by the device, which they leave with the draws at `k'`. -/
def AnsweredBy (p : Params) (es : List BusEvent) (d : Device) (k : Nat) (d' : Device) (k' : Nat) : Prop :=
  Device.respondAll p ((transfersOf es).map Prod.fst) d k = ((transfersOf es).map Prod.snd, d', k')

theorem AnsweredBy.append {p : Params} {es es' : List BusEvent} {d d' d'' : Device} {k k' k'' : Nat}
    (h : AnsweredBy p es d k d' k') (h' : AnsweredBy p es' d' k' d'' k'') : AnsweredBy p (es ++ es') d k d'' k'' := by
  unfold AnsweredBy at *
  rw [transfersOf_append, List.map_append, Device.respondAll_append, h, h', List.map_append]

/-- Events without a transfer leave the device alone. -/
theorem AnsweredBy.of_noTransfer {p : Params} {es : List BusEvent} (h : transfersOf es = []) (d : Device) (k : Nat) :
    AnsweredBy p es d k d k := by
  unfold AnsweredBy
  rw [h]
  rfl

/-- The part `r` of a request, run from `s` with a transport that completes, adds events whose transfers the device
answered, and does not fail. -/
structure Answered {α : Type} (s : State) (r : Run α) : Prop where
  params : r.state.params = s.params
  completes : r.state.TransportCompletes
  answered : ∃ es, r.state.trace = s.trace ++ es ∧
    AnsweredBy s.params es s.device s.draws r.state.device r.state.draws
  noFailure : r.ending ≠ some (.raised .transportFailure)

theorem Answered.bind {α β : Type} {s : State} {r : Run α} {g : α → State → Run β} (h : Answered s r)
    (hg : ∀ a t, t.TransportCompletes → Answered t (g a t)) : Answered s (r.bind g) := by
  cases r with
  | ended w t => exact ⟨h.params, h.completes, h.answered, h.noFailure⟩
  | ok a t =>
    obtain ⟨hp, hc, ⟨es, htrace, hes⟩, -⟩ := h
    obtain ⟨hp', hc', ⟨es', htrace', hes'⟩, hfail⟩ := hg a t hc
    refine ⟨hp'.trans hp, hc', ⟨es ++ es', ?_, hes.append ?_⟩, hfail⟩
    · rw [← List.append_assoc, ← htrace]
      exact htrace'
    · rw [← show t.params = s.params from hp]
      exact hes'

/-- A part run after an update that nothing which is sent depends on. -/
theorem Answered.after {α : Type} {s t : State} {r : Run α} (h : Answered t r)
    (hs : (t.params, t.trace, t.device, t.draws) = (s.params, s.trace, s.device, s.draws)) : Answered s r := by
  simp only [Prod.mk.injEq] at hs
  obtain ⟨hp, ht, hd, hk⟩ := hs
  refine ⟨h.params.trans hp, h.completes, ?_, h.noFailure⟩
  rw [← hp, ← ht, ← hd, ← hk]
  exact h.answered

/-- Nothing is sent. -/
theorem Answered.of_same {α : Type} {s : State} {r : Run α} (hc : s.TransportCompletes)
    (hf : r.ending ≠ some (.raised .transportFailure))
    (h : r.state.params = s.params ∧ r.state.answers = s.answers ∧ r.state.trace = s.trace ∧
      r.state.device = s.device ∧ r.state.draws = s.draws) : Answered s r := by
  obtain ⟨hp, ha, ht, hd, hk⟩ := h
  refine ⟨hp, by rwa [State.TransportCompletes, ha], ⟨[], by simpa using ht, ?_⟩, hf⟩
  rw [hd, hk]
  exact .of_noTransfer rfl _ _

theorem emit_answered {e : BusEvent} (he : transfersOf [e] = []) {s : State} (hc : s.TransportCompletes) :
    Answered s (emit e s) := by
  rw [emit_completes e hc]
  exact ⟨rfl, completes_drop hc 1, ⟨[e], rfl, .of_noTransfer he _ _⟩, nofun⟩

theorem emitAll_answered {es : List BusEvent} (he : ∀ e ∈ es, transfersOf [e] = []) {s : State}
    (hc : s.TransportCompletes) : Answered s (emitAll es s) := by
  induction es generalizing s with
  | nil => exact .of_same hc nofun ⟨rfl, rfl, rfl, rfl, rfl⟩
  | cons e rest ih =>
    exact (emit_answered (he e List.mem_cons_self) hc).bind fun _ _ hc =>
      ih (fun e h => he e (List.mem_cons_of_mem _ h)) hc

theorem xfer_answered (tx : List Byte) {s : State} (hc : s.TransportCompletes) : Answered s (xfer tx s) := by
  rw [xfer_completes tx hc]
  exact ⟨rfl, completes_drop hc 1, ⟨[.xfer tx (s.device.respond s.params tx s.draws).bytes], rfl, rfl⟩, nofun⟩

/-- Every transfer of such a part of a request is answered. -/
theorem Transactional.answered {α : Type} {f : State → Run α} (hf : Transactional f) :
    ∀ {s : State}, s.TransportCompletes → Answered s (f s) := by
  induction hf with
  | ok a => exact fun hc => .of_same hc nofun ⟨rfl, rfl, rfl, rfl, rfl⟩
  | timeout stage => exact fun hc => .of_same hc nofun ⟨rfl, rfl, rfl, rfl, rfl⟩
  | emit e he => exact emit_answered he
  | xfer tx => exact xfer_answered tx
  | bind _ _ ihf ihg => exact fun hc => (ihf hc).bind fun a _ hc => ihg a hc
  | latch g _ ih => exact fun hc => (ih (by exact hc)).after rfl
  | store m _ ih => exact fun hc => (ih (by exact hc)).after rfl
  | reads f _ ih => exact fun hc => ih _ _ _ hc

/-- RDSEC frees SB only after a transport failure (U13). -/
theorem loseSB_of_noFailure {r : Run Unit} (h : r.ending ≠ some (.raised .transportFailure)) : loseSB r = r := by
  unfold loseSB
  split
  · exact absurd rfl h
  · rfl

theorem openBody_answered {s : State} (hc : s.TransportCompletes) : Answered s (openBody s) := by
  unfold openBody
  split
  · exact .of_same hc nofun ⟨rfl, rfl, rfl, rfl, rfl⟩
  · exact (emitAll_answered (by simp [openEvents, transfersOf]) hc).bind fun _ _ hc =>
      .of_same hc nofun ⟨rfl, rfl, rfl, rfl, rfl⟩

theorem bodyOf_answered {i : Instr} {s : State} (hc : s.TransportCompletes) (h1 : i ≠ .enter) (h2 : i ≠ .leave)
    (h3 : i ≠ .init) (h4 : i ≠ .closeLink) : Answered s (bodyOf i s) := by
  cases i with
  | enter => exact absurd rfl h1
  | leave => exact absurd rfl h2
  | init => exact absurd rfl h3
  | closeLink => exact absurd rfl h4
  | openLink => exact openBody_answered hc
  | rdreg a =>
    exact ((regRead_transactional a).answered hc).bind fun _ _ hc => .of_same hc nofun ⟨rfl, rfl, rfl, rfl, rfl⟩
  | wrreg a v => exact (regWrite_transactional a v).answered hc
  | rdsec lba =>
    have h := (rdsecBody_transactional lba).answered hc
    show Answered s (loseSB (rdsecBody lba s))
    rw [loseSB_of_noFailure h.noFailure]
    exact h
  | wrsec lba => exact (wrsecBody_transactional lba).answered hc
  | erase lba => exact (eraseBody_transactional lba).answered hc
  | spiRd a =>
    exact ((regRead_transactional a).answered hc).bind fun _ _ hc => .of_same hc nofun ⟨rfl, rfl, rfl, rfl, rfl⟩
  | spiWr a v => exact (regWrite_transactional a v).answered hc

theorem closeBody_trace {s : State} (hc : s.TransportCompletes) :
    (closeBody s).state.trace = s.trace ++ closeEvents := by
  rw [closeBody, emitAll_completes _ hc]
  rfl

/-- A transport that completes asserts no reset. -/
theorem noReset_of_completes {s : State} (hc : s.TransportCompletes) : s.NoReset :=
  fun h => nomatch hc _ h

/-- Settles O39. -/
theorem deviceAnswersEveryTransfer : Obligations.DeviceAnswersEveryTransfer := by
  intro i s t hh hready hc h1 h2 h3 h
  have ht : t = concludeOn i.port (bodyOf i (s.begin i)) := by
    simpa [exec_eq, hh, hready] using h.symm
  have htrace : t.trace = (bodyOf i (s.begin i)).state.trace := by rw [ht, concludeOn_trace]
  by_cases hclose : i = .closeLink
  · subst hclose
    have hnone : transfersOf t.trace = [] := by
      rw [htrace, show bodyOf .closeLink = closeBody from rfl, closeBody_trace (by exact hc)]
      rfl
    simp [hnone, Device.respondAll]
  · obtain ⟨-, -, ⟨es, hes, hanswered⟩, -⟩ := bodyOf_answered (s := s.begin i) hc h1 h2 h3 hclose
    have hconcl := ht ▸ concludeOn_concludes i.port ((bodyOf_stops i (s.begin i)).noReset (noReset_of_completes hc)).1
    have hdevice : t.device = (bodyOf i (s.begin i)).state.device ∧ t.draws = (bodyOf i (s.begin i)).state.draws := by
      rw [hconcl.fields]
      exact ⟨rfl, rfl⟩
    have hall : AnsweredBy s.params t.trace s.device s.draws t.device t.draws := by
      rw [htrace, hes, hdevice.1, hdevice.2]
      exact hanswered
    unfold AnsweredBy at hall
    exact ⟨congrArg Prod.fst hall, fun _ => congrArg Prod.snd hall⟩

end Sys2Proof.Machine
end

section
/-! PROOFS. The round trip of a first sector under the reference device: what each part of WRSEC and RDSEC leaves in the
device's page buffer and array, and in SB. -/

namespace Sys2Proof.Machine

/-! ## Bytes of words -/

/-- `leBytes` undoes `le32` (R12). -/
theorem leBytes_le32 (a b c d : Byte) : leBytes (le32 a b c d) = [a, b, c, d] := by
  have hbyte : ∀ k, k < 4 → (le32 a b c d).extractLsb' (8 * k) 8 = [a, b, c, d].getD k 0 := by
    intro k hk
    refine BitVec.eq_of_getLsbD_eq fun i hi => ?_
    simp only [le32, BitVec.getLsbD_or, BitVec.getLsbD_shiftLeft, BitVec.getLsbD_setWidth, BitVec.getLsbD_extractLsb']
    interval_cases k <;> simp <;> grind
  exact congrArg₂ _ (hbyte 0 (by omega)) (congrArg₂ _ (hbyte 1 (by omega))
    (congrArg₂ _ (hbyte 2 (by omega)) (congrArg₂ _ (hbyte 3 (by omega)) rfl)))

/-- Byte `k` of the word at offset `o` of a buffer is the buffer's byte `o + k` (R49). -/
theorem getElem?_leBytes_le32 (f : Nat → Byte) (o : Nat) {k : Nat} (hk : k < 4) :
    (leBytes (le32 (f o) (f (o + 1)) (f (o + 2)) (f (o + 3))))[k]? = some (f (o + k)) := by
  rw [leBytes_le32]
  interval_cases k <;> rfl

/-- A byte of a patched buffer: the patch's inside, the old one outside. -/
theorem byteAt_patchBytes {buf bs : List Byte} {o : Nat} (h : o + bs.length ≤ buf.length) (j : Nat) :
    byteAt (patchBytes buf o bs) j = if o ≤ j ∧ j < o + bs.length then byteAt bs (j - o) else byteAt buf j := by
  simp only [byteAt, patchBytes, List.getD_eq_getElem?_getD, List.getElem?_append, List.getElem?_take,
    List.getElem?_drop, List.length_append, List.length_take]
  grind

/-! ## What register writes do to the device -/

/-- The registers are distinct, one by one. -/
theorem distinctRegisters_iff (p : Params) : distinctRegisters p = true ↔
    (p.regConfig ≠ p.regStatus ∧ p.regConfig ≠ p.regCommand ∧ p.regConfig ≠ p.regAddress ∧ p.regConfig ≠ p.regData) ∧
    (p.regStatus ≠ p.regCommand ∧ p.regStatus ≠ p.regAddress ∧ p.regStatus ≠ p.regData) ∧
    (p.regCommand ≠ p.regAddress ∧ p.regCommand ≠ p.regData) ∧ p.regAddress ≠ p.regData := by
  simp [distinctRegisters]

/-- A command that is none of the five with an effect of its own (R79). -/
def PlainCommand (p : Params) (v : Word) : Prop := v ∉ [p.cmdRead, p.cmdNull, p.cmdWPulse, p.cmdEExec, p.cmdWExec]

/-- The five commands with an effect are told apart, each from those the reference device tries before it (R79). -/
theorem distinctCommands_ne {p : Params} (h : distinctCommands p = true) :
    p.cmdWExec ≠ p.cmdEExec ∧
    (p.cmdRead ≠ p.cmdEExec ∧ p.cmdRead ≠ p.cmdWExec) ∧
    (p.cmdNull ≠ p.cmdEExec ∧ p.cmdNull ≠ p.cmdWExec ∧ p.cmdNull ≠ p.cmdRead) ∧
    (p.cmdWPulse ≠ p.cmdEExec ∧ p.cmdWPulse ≠ p.cmdWExec ∧ p.cmdWPulse ≠ p.cmdRead ∧ p.cmdWPulse ≠ p.cmdNull) := by
  simp only [distinctCommands, Bool.and_eq_true, decide_eq_true_eq, List.nodup_cons, List.mem_cons, not_or] at h
  obtain ⟨⟨⟨hreadNull, hreadPulse, hreadErase, hreadWrite, -⟩, ⟨hnullPulse, hnullErase, hnullWrite, -⟩,
    ⟨hpulseErase, hpulseWrite, -⟩, ⟨heraseWrite, -⟩, -⟩, -⟩ := h
  exact ⟨Ne.symm heraseWrite, ⟨hreadErase, hreadWrite⟩, ⟨hnullErase, hnullWrite, Ne.symm hreadNull⟩,
    ⟨hpulseErase, hpulseWrite, Ne.symm hreadPulse, Ne.symm hnullPulse⟩⟩

/-- The unlock and confirm values have no effect of their own (R79). -/
theorem distinctCommands_plain {p : Params} (h : distinctCommands p = true) :
    PlainCommand p p.cmdEUnlock ∧ PlainCommand p p.cmdEConfirm ∧ PlainCommand p p.cmdWUnlock ∧
      PlainCommand p p.cmdWConfirm := by
  simpa [PlainCommand] using (Bool.and_eq_true_iff.mp h).2

/-- `r'` has the array of `r`, and the configuration. -/
structure Rdm.SameArray (p : Params) (r r' : Rdm) : Prop where
  array : r'.array = r.array
  erased : r'.erased = r.erased
  config : r'.regAt p.regConfig = r.regAt p.regConfig

theorem Rdm.SameArray.trans {p : Params} {r r' r'' : Rdm} (h : r.SameArray p r') (k : r'.SameArray p r'') :
    r.SameArray p r'' :=
  ⟨k.array.trans h.array, k.erased.trans h.erased, k.config.trans h.config⟩

/-- The device as every part of the round trip finds it. -/
structure Rdm.Steady (p : Params) (r : Rdm) : Prop where
  quiet : r.quiet = true
  form : r.wf p = true
  erased : r.erased = 0xFF

section
variable {p : Params} {r : Rdm} {v : Word}

/-- No command changes what a register holds (R79 (6)). -/
theorem Rdm.regAt_command (r : Rdm) (v : Word) (a : RegAddr) : (r.command p v).regAt a = r.regAt a := by
  rw [Rdm.regAt, (Rdm.sameForm_command p r v).reg, Rdm.regAt]

theorem Rdm.erased_writeReg (a : RegAddr) : (r.writeReg p a v).erased = r.erased := by
  unfold Rdm.writeReg
  split
  · rfl
  · split
    · exact (Rdm.sameForm_command p r v).erased
    · split
      · split <;> rfl
      · split <;> rfl

theorem Rdm.Steady.writeReg (h : r.Steady p) (a : RegAddr) (v : Word) : (r.writeReg p a v).Steady p :=
  ⟨Rdm.quiet_writeReg h.quiet p a v, Rdm.wf_writeReg h.form a v, (Rdm.erased_writeReg a).trans h.erased⟩

/-- The parts of the device's form that the round trip needs. -/
theorem Rdm.Steady.forms (h : r.Steady p) :
    r.reg.length = 64 ∧ r.pb.length = sectorBytes ∧ Memory.wf r.array = true := by
  obtain ⟨hregs, hpage, harray, -, -⟩ := (Rdm.wf_iff p r).mp h.form
  exact ⟨hregs, hpage, harray⟩

/-- A register of a steady device read after a write. -/
theorem Rdm.Steady.regAt_setReg (h : r.Steady p) (a b : RegAddr) (v : Word) :
    (r.setReg a v).regAt b = if b = a then v else r.regAt b := by
  obtain ⟨hregs, -, -⟩ := h.forms
  exact Rdm.regAt_setReg hregs a b v

theorem Rdm.command_of_ne (h1 : v ≠ p.cmdEExec) (h2 : v ≠ p.cmdWExec) :
    r.command p v = (r.bufferCommand p v).remember v :=
  Rdm.command_of_neither (fun h => h1 h.1) fun h => h2 h.2.1

theorem Rdm.command_plain (h : PlainCommand p v) : r.command p v = r.remember v := by
  simp only [PlainCommand, List.mem_cons, List.not_mem_nil, or_false, not_or] at h
  obtain ⟨hread, hnull, hpulse, herase, hwrite⟩ := h
  rw [Rdm.command_of_ne herase hwrite, Rdm.bufferCommand, if_neg hread, if_neg hnull, if_neg hpulse]

theorem Rdm.sameArray_command (h1 : v ≠ p.cmdEExec) (h2 : v ≠ p.cmdWExec) : r.SameArray p (r.command p v) := by
  obtain ⟨hform, harray⟩ := Rdm.sameForm_bufferCommand p r v
  refine ⟨?_, (Rdm.sameForm_command p r v).erased, Rdm.regAt_command r v _⟩
  rw [Rdm.command_of_ne h1 h2]
  exact harray

/-- A write of another register than the configuration's and the command's keeps the array and the page buffer. -/
theorem Rdm.sameArray_writeReg (hr : r.Steady p) {a : RegAddr} (h1 : p.regConfig ≠ a) (h2 : a ≠ p.regCommand) :
    r.SameArray p (r.writeReg p a v) ∧ (r.writeReg p a v).pb = r.pb := by
  have hset : ∀ w, (r.setReg a w).regAt p.regConfig = r.regAt p.regConfig := fun w => by
    rw [hr.regAt_setReg, if_neg h1]
  unfold Rdm.writeReg
  rw [if_neg h2]
  split
  · exact ⟨⟨rfl, rfl, hset _⟩, rfl⟩
  · split
    · split
      · exact ⟨⟨rfl, rfl, hset v⟩, rfl⟩
      · exact ⟨⟨rfl, rfl, hset v⟩, rfl⟩
    · split
      · exact ⟨⟨rfl, rfl, rfl⟩, rfl⟩
      · exact ⟨⟨rfl, rfl, hset v⟩, rfl⟩

section
variable (hreg : distinctRegisters p = true)
include hreg

theorem Rdm.writeReg_command : r.writeReg p p.regCommand v = r.command p v := by
  obtain ⟨-, ⟨hstatus, -⟩, -⟩ := (distinctRegisters_iff p).mp hreg
  rw [Rdm.writeReg, if_neg hstatus.symm, if_pos rfl]

theorem Rdm.writeReg_data : r.writeReg p p.regData v = { r with data := v } := by
  obtain ⟨-, ⟨-, -, hstatus⟩, ⟨-, hcommand⟩, haddress⟩ := (distinctRegisters_iff p).mp hreg
  rw [Rdm.writeReg, if_neg hstatus.symm, if_neg hcommand.symm, if_neg haddress.symm, if_pos rfl]

theorem Rdm.writeReg_config : r.writeReg p p.regConfig v = r.setReg p.regConfig v := by
  obtain ⟨⟨hstatus, hcommand, haddress, hdata⟩, -⟩ := (distinctRegisters_iff p).mp hreg
  rw [Rdm.writeReg, if_neg hstatus, if_neg hcommand, if_neg haddress, if_neg hdata]

theorem Rdm.writeReg_address : r.writeReg p p.regAddress v =
    if v.toNat < sectorBytes then { r.setReg p.regAddress v with ptr := v.toNat, pulses := 0 }
    else r.setReg p.regAddress v := by
  obtain ⟨-, ⟨-, hstatus, -⟩, ⟨hcommand, -⟩, -⟩ := (distinctRegisters_iff p).mp hreg
  rw [Rdm.writeReg, if_neg hstatus.symm, if_neg hcommand.symm, if_pos rfl]

/-- The address register holds what was written to it. -/
theorem Rdm.addressedSector_writeReg (hr : r.Steady p) :
    (r.writeReg p p.regAddress v).addressedSector p = (v >>> 9).toNat := by
  have hset : (r.setReg p.regAddress v).regAt p.regAddress = v := by
    rw [hr.regAt_setReg, if_pos rfl]
  rw [Rdm.writeReg_address hreg]
  split
  · show ((r.setReg p.regAddress v).regAt p.regAddress >>> 9).toNat = _
    rw [hset]
  · rw [Rdm.addressedSector, hset]

/-- A read of the data register gives the data latch (R77). -/
theorem Rdm.readReg_data_of_quiet (hq : r.quiet = true) : (r.readReg p p.regData).1 = r.data := by
  obtain ⟨-, ⟨-, -, hstatus⟩, -⟩ := (distinctRegisters_iff p).mp hreg
  obtain ⟨-, hfirst, -⟩ := (Rdm.quiet_iff r).mp hq
  simp [Rdm.readReg, hfirst, hstatus.symm]

/-- A pointer reset (R79 (5)). -/
theorem Rdm.ptr_writeReg_zero : (r.writeReg p p.regAddress 0).ptr = 0 := by
  rw [Rdm.writeReg_address hreg, if_pos (by decide)]
  rfl

/-- The write/erase-enable bit is set once it is written to the configuration register (R172). -/
theorem Rdm.enabled_writeReg (hr : r.Steady p) (hp : p.admissible = true) (c : Word) :
    (r.writeReg p p.regConfig (c ||| p.weMask)).regAt p.regConfig &&& p.weMask ≠ 0 := by
  have hwe : p.weMask ≠ 0 := by
    simp only [Params.admissible, Bool.and_eq_true, bne_iff_ne] at hp
    obtain ⟨⟨⟨-, hwe⟩, -⟩, -⟩ := hp
    exact hwe
  have hmask : (c ||| p.weMask) &&& p.weMask = p.weMask := by
    refine BitVec.eq_of_getLsbD_eq fun i _ => ?_
    rw [BitVec.getLsbD_and, BitVec.getLsbD_or]
    cases p.weMask.getLsbD i <;> simp
  rwa [Rdm.writeReg_config hreg, hr.regAt_setReg, if_pos rfl, hmask]

end

/-! ## What the commands of the round trip do -/

/-- The device is enabled for writes and erases, and sector `t` holds erased bytes only. -/
structure Rdm.Blank (p : Params) (t : Nat) (r : Rdm) : Prop where
  enabled : r.regAt p.regConfig &&& p.weMask ≠ 0
  bytes : ∀ j, j < sectorBytes → r.arrayByte t j = 0xFF

theorem Rdm.Blank.of_same {r' : Rdm} {t : Nat} (h : r.Blank p t) (k : r.SameArray p r') : r'.Blank p t :=
  ⟨k.config ▸ h.enabled, fun j hj => (Rdm.arrayByte_congr k.array k.erased t j).trans (h.bytes j hj)⟩

section
variable (hcmd : distinctCommands p = true)
include hcmd

/-- The erase triplet on an enabled device leaves the addressed sector blank (R79 (1)). -/
theorem Rdm.blank_eraseTriplet (hr : r.Steady p) (hwe : r.regAt p.regConfig &&& p.weMask ≠ 0) :
    (((r.command p p.cmdEUnlock).command p p.cmdEConfirm).command p p.cmdEExec).Blank p (r.addressedSector p) := by
  obtain ⟨hunlock, hconfirm, -, -⟩ := distinctCommands_plain hcmd
  refine ⟨by simpa only [Rdm.regAt_command] using hwe, fun j hj => ?_⟩
  rw [Rdm.command_plain hunlock, Rdm.command_plain hconfirm]
  have herases : ((r.remember p.cmdEUnlock).remember p.cmdEConfirm).Erases p p.cmdEExec :=
    ⟨rfl, Rdm.hist_remember_remember r _ _, hwe⟩
  rw [Rdm.command_of_erases herases, Rdm.arrayByte_busy_remember, Rdm.arrayByte_eraseBlock _ _ _ _ hj, if_pos (by rfl)]
  exact hr.erased

/-- The write triplet programs the page buffer into a blank sector (R79 (2)). -/
theorem Rdm.arrayByte_writeTriplet (hr : r.Steady p) (hblank : r.Blank p (r.addressedSector p)) {j : Nat}
    (hj : j < sectorBytes) :
    (((r.command p p.cmdWUnlock).command p p.cmdWConfirm).command p p.cmdWExec).arrayByte (r.addressedSector p) j =
      byteAt r.pb j := by
  obtain ⟨-, -, hunlock, hconfirm⟩ := distinctCommands_plain hcmd
  obtain ⟨hne, -⟩ := distinctCommands_ne hcmd
  rw [Rdm.command_plain hunlock, Rdm.command_plain hconfirm]
  have hprograms : ((r.remember p.cmdWUnlock).remember p.cmdWConfirm).Programs p p.cmdWExec :=
    ⟨fun h => hne h.1, rfl, Rdm.hist_remember_remember r _ _, hblank.enabled⟩
  obtain ⟨-, -, harray⟩ := hr.forms
  change Memory.wf ((r.remember p.cmdWUnlock).remember p.cmdWConfirm).array = true at harray
  rw [Rdm.command_of_programs hprograms, Rdm.arrayByte_busy_remember, Rdm.arrayByte_program harray _ _ hj,
    if_pos (by rfl)]
  show r.arrayByte (r.addressedSector p) j &&& byteAt r.pb j = byteAt r.pb j
  rw [hblank.bytes j hj]
  exact BitVec.allOnes_and

/-- The read command fills the page buffer from the addressed sector (R79 (3)). -/
theorem Rdm.byteAt_command_read {j : Nat} (hj : j < sectorBytes) :
    byteAt (r.command p p.cmdRead).pb j = r.arrayByte (r.addressedSector p) j := by
  obtain ⟨-, ⟨herase, hwrite⟩, -⟩ := distinctCommands_ne hcmd
  rw [Rdm.command_of_ne herase hwrite, Rdm.bufferCommand, if_pos rfl]
  simp [Rdm.remember, Rdm.sector, byteAt, List.getD_eq_getElem?_getD, hj]

/-- A null command moves the word at the pointer to the data latch (R79 (4)). -/
theorem Rdm.command_null (hptr : r.ptr + 4 ≤ sectorBytes) :
    (r.command p p.cmdNull).pb = r.pb ∧ (r.command p p.cmdNull).ptr = r.ptr + 4 ∧
      (r.command p p.cmdNull).data = le32 (byteAt r.pb r.ptr) (byteAt r.pb (r.ptr + 1)) (byteAt r.pb (r.ptr + 2))
        (byteAt r.pb (r.ptr + 3)) := by
  obtain ⟨-, -, ⟨herase, hwrite, hread⟩, -⟩ := distinctCommands_ne hcmd
  rw [Rdm.command_of_ne herase hwrite, Rdm.bufferCommand, if_neg hread, if_pos rfl, Rdm.nullCommand, if_pos hptr]
  exact ⟨rfl, rfl, rfl⟩

/-- A write-command pulse moves the data latch into the page buffer (R79 (5)). -/
theorem Rdm.command_pulse (hptr : r.ptr + 4 ≤ sectorBytes) :
    r.SameArray p (r.command p p.cmdWPulse) ∧ (r.command p p.cmdWPulse).ptr = r.ptr + 4 ∧
      (r.command p p.cmdWPulse).pb = patchBytes r.pb r.ptr (leBytes r.data) := by
  obtain ⟨-, -, -, herase, hwrite, hread, hnull⟩ := distinctCommands_ne hcmd
  refine ⟨Rdm.sameArray_command herase hwrite, ?_⟩
  rw [Rdm.command_of_ne herase hwrite, Rdm.bufferCommand, if_neg hread, if_neg hnull, if_pos rfl]
  simp [Rdm.remember, Rdm.writePulse, hptr]

end

end

end Sys2Proof.Machine
end

section
/-! PROOFS. The round trip, part by part: what WRSEC leaves in the device and RDSEC in SB, and the two together. -/

namespace Sys2Proof.Machine

/-! ## Parts of a request that go on -/

/-- A part of a request goes on, with a value and in a state that have the property `Q`. -/
def Run.Yields {α : Type} (r : Run α) (Q : α → State → Prop) : Prop := ∃ a t, r = .ok a t ∧ Q a t

theorem Run.Yields.bind {α β : Type} {r : Run α} {f : α → State → Run β} {Q : α → State → Prop}
    {Q' : β → State → Prop} (h : r.Yields Q) (hf : ∀ a t, Q a t → (f a t).Yields Q') : (r.bind f).Yields Q' := by
  obtain ⟨a, t, rfl, hq⟩ := h
  exact hf a t hq

theorem Run.Yields.mono {α : Type} {r : Run α} {Q Q' : α → State → Prop} (h : r.Yields Q)
    (hq : ∀ a t, Q a t → Q' a t) : r.Yields Q' := by
  obtain ⟨a, t, e, ha⟩ := h
  exact ⟨a, t, e, hq a t ha⟩

/-- The block, with parameters `p` and `m` in SB and a transport that completes, talks to the steady reference device
`r`. -/
structure OnRdm (p : Params) (m : Memory) (s : State) (r : Rdm) : Prop where
  params : s.params = p
  sb : s.sb = m
  completes : s.TransportCompletes
  device : s.device = .rdm r
  steady : r.Steady p

section
variable {p : Params} {m : Memory} {s : State} {r : Rdm}

theorem OnRdm.latches (h : OnRdm p m s r) (l : Latches) : OnRdm p m { s with latches := l } r :=
  ⟨h.params, h.sb, h.completes, h.device, h.steady⟩

/-- What a register transaction leaves, if the device answers the frame by becoming `r'`. -/
theorem OnRdm.afterPulse (h : OnRdm p m s r) {tx : List Byte} {r' : Rdm} (htx : (r.transact p tx).2 = r')
    (hr' : r'.Steady p) : OnRdm p m (s.afterPulse tx) r' where
  params := h.params
  sb := h.sb
  completes := State.afterPulse_completes h.completes tx
  device := by simp [State.afterPulse, h.device, h.params, Device.respond, htx]
  steady := hr'

theorem regRead_yields (h : OnRdm p m s r) (a : RegAddr) :
    (regRead a s).Yields fun v t => v = (r.readReg p a).1 ∧ OnRdm p m t r := by
  have htransact := fun turnaround => Rdm.transact_readFrame h.steady.quiet p turnaround a
  refine ⟨_, _, regRead_completes a h.completes, ?_, h.afterPulse (congrArg Prod.snd (htransact _)) h.steady⟩
  simp [h.device, Device.respond, h.params, htransact]

theorem regWrite_yields (h : OnRdm p m s r) (a : RegAddr) (v : Word) :
    (regWrite a v s).Yields fun _ t => OnRdm p m t (r.writeReg p a v) :=
  ⟨_, _, regWrite_completes a v h.completes,
    h.afterPulse (Rdm.transact_writeFrame h.steady.quiet p a v) (h.steady.writeReg a v)⟩

/-- Status clear leaves the array, the page buffer and the configuration (R166). -/
theorem clearStatus_yields (h : OnRdm p m s r) (hreg : distinctRegisters p = true) :
    (clearStatus s).Yields fun _ t => ∃ r', OnRdm p m t r' ∧ r.SameArray p r' ∧ r'.pb = r.pb := by
  obtain ⟨⟨hconfig, -⟩, ⟨hcommand, -⟩, -⟩ := (distinctRegisters_iff p).mp hreg
  refine (regRead_yields h _).bind fun st t ⟨_, ht⟩ => ?_
  refine (regWrite_yields (ht.latches { t.latches with held := some st }) _ st).mono fun _ u hu => ?_
  rw [ht.params] at hu
  exact ⟨_, hu, Rdm.sameArray_writeReg h.steady hconfig hcommand⟩

/-- Wait-ready is one poll, and leaves the device as it was (R164). -/
theorem waitReady_yields (h : OnRdm p m s r) (hp : p.admissible = true) (stage : Stage) :
    (waitReady stage s).Yields fun _ t => OnRdm p m t r := by
  have hmax : 1 ≤ s.params.pollMax := by
    rw [h.params]
    simp only [Params.admissible, Bool.and_eq_true, decide_eq_true_eq] at hp
    obtain ⟨⟨-, hmax⟩, -⟩ := hp
    exact hmax
  obtain ⟨n, hn⟩ : ∃ n, s.params.pollMax = n + 1 := ⟨_, (Nat.sub_add_cancel hmax).symm⟩
  rw [waitReady, hn, pollLoop]
  refine (regRead_yields (h.latches _) _).bind fun st t ⟨hst, ht⟩ => ?_
  have hready : st &&& t.params.busyMask = 0 := by
    rw [hst, ht.params, h.params]
    exact Rdm.status_ready_of_quiet h.steady.quiet p
  rw [if_pos hready]
  exact ⟨_, _, rfl, ht⟩

section
variable (h : OnRdm p m s r) (hreg : distinctRegisters p = true)
include h hreg

theorem command_yields (v : Params → Word) :
    (command (v s.params) s).Yields fun _ t => OnRdm p m t (r.command p (v p)) := by
  refine (regWrite_yields h _ _).mono fun _ t ht => ?_
  rwa [h.params, Rdm.writeReg_command hreg] at ht

/-- The read-modify-write of the configuration register enables writes and erases (R172). -/
theorem enableWrite_yields (hp : p.admissible = true) :
    (enableWrite s).Yields fun _ t => ∃ r', OnRdm p m t r' ∧ r'.regAt p.regConfig &&& p.weMask ≠ 0 := by
  refine (regRead_yields h _).bind fun c t ⟨_, ht⟩ => ?_
  refine (regWrite_yields (ht.latches { t.latches with held := some c }) _ _).mono fun _ u hu => ?_
  rw [ht.params] at hu
  exact ⟨_, hu, Rdm.enabled_writeReg hreg h.steady hp c⟩

/-- The address register selects the sector, and the rest that matters stays (R46). -/
theorem setAddress_yields (lba : Word) :
    (setAddress lba s).Yields fun _ t => ∃ r', OnRdm p m t r' ∧ r.SameArray p r' ∧ r'.pb = r.pb ∧
      r'.addressedSector p = (sectorAddress lba >>> 9).toNat := by
  obtain ⟨⟨-, -, hconfig, -⟩, -, ⟨hcommand, -⟩, -⟩ := (distinctRegisters_iff p).mp hreg
  refine (regWrite_yields h _ _).mono fun _ t ht => ?_
  rw [h.params] at ht
  obtain ⟨harray, hpage⟩ := Rdm.sameArray_writeReg h.steady hconfig hcommand.symm (v := sectorAddress lba)
  exact ⟨_, ht, harray, hpage, Rdm.addressedSector_writeReg hreg h.steady⟩

/-- A pointer reset leaves the array, the page buffer and the configuration (R167). -/
theorem resetPointer_yields :
    (resetPointer s).Yields fun _ t => ∃ r', OnRdm p m t r' ∧ r.SameArray p r' ∧ r'.pb = r.pb ∧ r'.ptr = 0 := by
  obtain ⟨⟨-, -, hconfig, -⟩, -, ⟨hcommand, -⟩, -⟩ := (distinctRegisters_iff p).mp hreg
  refine (regWrite_yields h _ _).mono fun _ t ht => ?_
  rw [h.params] at ht
  obtain ⟨harray, hpage⟩ := Rdm.sameArray_writeReg h.steady hconfig hcommand.symm (v := 0)
  exact ⟨_, ht, harray, hpage, Rdm.ptr_writeReg_zero hreg⟩

/-! ## WRSEC -/

variable (hcmd : distinctCommands p = true) (hp : p.admissible = true)
include hcmd

/-- One word of WRSEC's loop: it goes into the page buffer at the pointer (R176). -/
theorem writeWord_device {r' : Rdm} {i : Nat} (hr' : r' = (r.writeReg p p.regData (sbWord m i)).command p p.cmdWPulse)
    (hi : 4 * i + 4 ≤ sectorBytes) (hptr : r.ptr = 4 * i) (hpage : ∀ j, j < 4 * i → byteAt r.pb j = sbByte m j) :
    r.SameArray p r' ∧ r'.ptr = 4 * (i + 1) ∧ ∀ j, j < 4 * (i + 1) → byteAt r'.pb j = sbByte m j := by
  rw [Rdm.writeReg_data hreg] at hr'
  obtain ⟨harray, hptr', hpb⟩ :=
    Rdm.command_pulse (r := { r with data := sbWord m i }) hcmd (hptr ▸ hi)
  rw [← hr'] at harray hptr' hpb
  refine ⟨⟨harray.array, harray.erased, harray.config⟩, by rw [hptr']; simp only [hptr]; omega, fun j hj => ?_⟩
  have hfits : r.ptr + (leBytes (sbWord m i)).length ≤ r.pb.length := by
    obtain ⟨-, hlength, -⟩ := h.steady.forms
    rw [hlength, hptr]
    exact hi
  rw [hpb]
  refine (byteAt_patchBytes hfits j).trans ?_
  rw [hptr, show (leBytes (sbWord m i)).length = 4 from rfl]
  split
  next hin =>
    obtain ⟨k, rfl⟩ := Nat.exists_eq_add_of_le hin.1
    rw [Nat.add_sub_cancel_left, byteAt, List.getD_eq_getElem?_getD, sbWord, getElem?_leBytes_le32 _ _ (by omega)]
    rfl
  next hout => exact hpage j (by omega)

theorem writeWords_yields (n : Nat) {i : Nat} (hin : i + n = sectorWords) (hptr : r.ptr = 4 * i)
    (hpage : ∀ j, j < 4 * i → byteAt r.pb j = sbByte m j) :
    (writeWords n i s).Yields fun _ t => ∃ r', OnRdm p m t r' ∧ r.SameArray p r' ∧
      ∀ j, j < sectorBytes → byteAt r'.pb j = sbByte m j := by
  induction n generalizing i s r with
  | zero =>
    change i = 132 at hin
    subst hin
    exact ⟨_, _, rfl, r, h, ⟨rfl, rfl, rfl⟩, hpage⟩
  | succ n ih =>
    change i + (n + 1) = 132 at hin
    have hi : 4 * i + 4 ≤ sectorBytes := by
      change 4 * i + 4 ≤ 528
      omega
    refine (regWrite_yields (h.latches _) _ _).bind fun _ t ht => ?_
    refine (command_yields ht hreg Params.cmdWPulse).bind fun _ u hu => ?_
    rw [h.params, h.sb] at hu
    obtain ⟨harray, hptr', hpage'⟩ := writeWord_device h hreg hcmd rfl hi hptr hpage
    refine (ih hu (by change i + 1 + n = 132; omega) hptr' hpage').mono fun _ v ⟨r', hv, harray', hfull⟩ => ?_
    exact ⟨r', hv, harray.trans harray', hfull⟩

include hp

/-- ERASE leaves the sector's bytes erased, and writes enabled (R172). -/
theorem eraseBody_yields (lba : Word) :
    (eraseBody lba s).Yields fun _ t => ∃ r', OnRdm p m t r' ∧ r'.Blank p (sectorAddress lba >>> 9).toNat := by
  refine (clearStatus_yields h hreg).bind fun _ _ ⟨_, h1, _⟩ => ?_
  refine (enableWrite_yields h1 hreg hp).bind fun _ _ ⟨_, h2, henabled⟩ => ?_
  refine (setAddress_yields h2 hreg lba).bind fun _ _ ⟨r3, h3, hsame, _, haddr⟩ => ?_
  refine (command_yields h3 hreg Params.cmdEUnlock).bind fun _ _ h4 => ?_
  refine (command_yields h4 hreg Params.cmdEConfirm).bind fun _ _ h5 => ?_
  refine (command_yields h5 hreg Params.cmdEExec).bind fun _ _ h6 => ?_
  refine (waitReady_yields h6 hp .erase).mono fun _ _ h7 => ⟨_, h7, ?_⟩
  rw [← haddr]
  exact Rdm.blank_eraseTriplet hcmd h3.steady (hsame.config ▸ henabled)

/-- WRSEC of a first sector leaves SB's bytes in the sector (R176). -/
theorem wrsecBody_yields {lba : Word} (hfirst : firstOfBlock s.geometry lba = true) :
    (wrsecBody lba s).Yields fun _ t => ∃ r', OnRdm p m t r' ∧
      ∀ j, j < sectorBytes → r'.arrayByte (sectorAddress lba >>> 9).toNat j = sbByte m j := by
  unfold wrsecBody eraseFirst
  rw [if_pos hfirst]
  refine (eraseBody_yields h hreg hcmd hp lba).bind fun _ _ ⟨_, h1, hblank⟩ => ?_
  refine (clearStatus_yields h1 hreg).bind fun _ _ ⟨_, h2, hsame2, _⟩ => ?_
  refine (resetPointer_yields h2 hreg).bind fun _ _ ⟨_, h3, hsame3, _, hptr⟩ => ?_
  refine (writeWords_yields h3 hreg hcmd sectorWords (Nat.zero_add _) hptr nofun).bind
    fun _ _ ⟨_, h4, hsame4, hpage⟩ => ?_
  refine (waitReady_yields h4 hp .writeData).bind fun _ _ h5 => ?_
  refine (setAddress_yields h5 hreg lba).bind fun _ _ ⟨r6, h6, hsame6, hpage6, haddr⟩ => ?_
  refine (waitReady_yields h6 hp .writeAddress).bind fun _ _ h7 => ?_
  refine (command_yields h7 hreg Params.cmdWUnlock).bind fun _ _ h8 => ?_
  refine (command_yields h8 hreg Params.cmdWConfirm).bind fun _ _ h9 => ?_
  refine (command_yields h9 hreg Params.cmdWExec).bind fun _ _ h10 => ?_
  refine (waitReady_yields h10 hp .writeExecute).mono fun _ _ h11 => ⟨_, h11, fun j hj => ?_⟩
  have hblank6 : r6.Blank p (r6.addressedSector p) :=
    haddr ▸ hblank.of_same (((hsame2.trans hsame3).trans hsame4).trans hsame6)
  rw [← haddr, Rdm.arrayByte_writeTriplet hcmd h6.steady hblank6 hj, hpage6]
  exact hpage j hj

omit hp

/-! ## RDSEC -/

/-- RDSEC's word loop copies the page buffer to SB (R169). -/
theorem readWords_yields (n : Nat) {i : Nat} (hm : Memory.wf m = true) (hin : i + n = sectorWords)
    (hptr : r.ptr = 4 * i) (hread : ∀ j, j < 4 * i → m.read j = some (byteAt r.pb j)) :
    (readWords n i s).Yields fun _ t => ∀ j, j < sectorBytes → t.sb.read j = some (byteAt r.pb j) := by
  induction n generalizing i s r m with
  | zero =>
    change i = 132 at hin
    subst hin
    refine ⟨_, _, rfl, fun j hj => ?_⟩
    rw [h.sb]
    exact hread j hj
  | succ n ih =>
    change i + (n + 1) = 132 at hin
    have hi : r.ptr + 4 ≤ sectorBytes := by
      change r.ptr + 4 ≤ 528
      omega
    obtain ⟨hpb, hptr', hdata⟩ := Rdm.command_null hcmd hi
    refine (command_yields (h.latches _) hreg Params.cmdNull).bind fun _ t ht => ?_
    refine (regRead_yields ht _).bind fun w u ⟨hw, hu⟩ => ?_
    rw [ht.params, Rdm.readReg_data_of_quiet hreg ht.steady.quiet, hdata, hptr] at hw
    have hu' : OnRdm p (sbPutWord m i w) { u with sb := sbPutWord u.sb i w } (r.command p p.cmdNull) :=
      ⟨hu.params, by rw [hu.sb], hu.completes, hu.device, hu.steady⟩
    rw [← hpb]
    refine ih hu' (Memory.wf_writeBytes hm _ _) (by change i + 1 + n = 132; omega) (by omega) fun j hj => ?_
    rw [read_sbPutWord hm, hpb, hw]
    split
    next hin =>
      obtain ⟨k, rfl⟩ := Nat.exists_eq_add_of_le hin.1
      rw [Nat.add_sub_cancel_left]
      exact getElem?_leBytes_le32 (byteAt r.pb) (4 * i) (by omega)
    next hout => exact hread j (by omega)

include hp

/-- RDSEC leaves the sector's bytes in SB (R169). -/
theorem rdsecBody_yields (lba : Word) (hm : Memory.wf m = true) :
    (rdsecBody lba s).Yields fun _ t => ∀ j, j < sectorBytes →
      t.sb.read j = some (r.arrayByte (sectorAddress lba >>> 9).toNat j) := by
  refine (clearStatus_yields h hreg).bind fun _ _ ⟨_, h1, hsame1, _⟩ => ?_
  refine (setAddress_yields h1 hreg lba).bind fun _ _ ⟨r2, h2, hsame2, _, haddr⟩ => ?_
  refine (command_yields h2 hreg Params.cmdRead).bind fun _ _ h3 => ?_
  refine (waitReady_yields h3 hp .read).bind fun _ _ h4 => ?_
  refine (resetPointer_yields h4 hreg).bind fun _ _ ⟨_, h5, _, hpage, hptr⟩ => ?_
  refine (readWords_yields h5 hreg hcmd sectorWords hm (Nat.zero_add _) hptr nofun).mono fun _ t ht j hj => ?_
  have hsame := hsame1.trans hsame2
  rw [ht j hj, hpage, Rdm.byteAt_command_read hcmd hj, haddr, Rdm.arrayByte_congr hsame.array hsame.erased]

end

/-! ## The two requests -/

theorem OnRdm.begin (h : OnRdm p m s r) (i : Instr) : OnRdm p m (s.begin i) r :=
  ⟨h.params, h.sb, h.completes, h.device, h.steady⟩

/-- RDSEC that goes on frees no SB (U13). -/
theorem loseSB_yields {r : Run Unit} {Q : Unit → State → Prop} (h : r.Yields Q) : (loseSB r).Yields Q := by
  obtain ⟨a, t, rfl, hq⟩ := h
  exact ⟨a, t, rfl, hq⟩

/-- A request whose body goes on ends OK, in the state the body left but for RESULT and the sequencer's fields. -/
theorem exec_of_yields {i : Instr} {Q : Unit → State → Prop} (hi : i.port = .request) (hh : s.halted = false)
    (hready : ready i s = true) (hbody : (bodyOf i (s.begin i)).Yields Q) :
    ∃ t, bodyOf i (s.begin i) = .ok () t ∧ Q () t ∧ exec i s = .next (t.finish codeOk) := by
  obtain ⟨⟨⟩, t, e, hq⟩ := hbody
  refine ⟨t, e, hq, ?_⟩
  rw [exec_eq, hi, e]
  simp [hh, hready, concludeOn, conclude]

end

/-- Every byte of a full SB has its value (R174). -/
theorem read_of_sbFull {m : Memory} (h : sbFull m = true) {j : Nat} (hj : j < sectorBytes) :
    m.read j = some (sbByte m j) := by
  have hsome : (m.read j).isSome = true := by
    simp only [sbFull, List.all_eq_true, List.mem_range] at h
    exact h j hj
  obtain ⟨b, hb⟩ := Option.isSome_iff_exists.mp hsome
  rw [sbByte, hb]
  rfl

/-- Settles O60: WRSEC erases the sector and programs SB's bytes into it, and RDSEC reads them from it. -/
theorem roundTripOfFirstSector : Obligations.RoundTripOfFirstSector := by
  intro lba s r g hh hinit hg hmod hsb hfull hc hp hreg hcmd hdev hwf hquiet herased
  have hs : OnRdm s.params s.sb s r := ⟨rfl, rfl, hc, hdev, ⟨hquiet, hwf, herased⟩⟩
  have hfirst : firstOfBlock (s.begin (.wrsec lba)).geometry lba = true := by
    simp [firstOfBlock, hg, hmod]
  obtain ⟨t, hbody, ⟨r', ht, hbytes⟩, hexec⟩ :=
    exec_of_yields (i := .wrsec lba) rfl hh (by simp [ready, hinit, hfull])
      (wrsecBody_yields (hs.begin _) hreg hcmd hp hfirst)
  refine ⟨_, hexec, rfl, fun m hm => ?_⟩
  have hbus : BusOnly (s.begin (.wrsec lba)) t := by
    have h := wrsecBody_busOnly lba (s.begin (.wrsec lba))
    rwa [show wrsecBody lba _ = .ok () t from hbody] at h
  have ht' : OnRdm s.params m { t.finish codeOk with sb := m } r' :=
    ⟨ht.params, rfl, ht.completes, ht.device, ht.steady⟩
  obtain ⟨u, -, hread, hexec'⟩ :=
    exec_of_yields (i := .rdsec lba) (s := { t.finish codeOk with sb := m }) rfl (hbus.halted.trans hh)
      (hbus.initialized.trans hinit)
      (loseSB_yields (rdsecBody_yields (ht'.begin (.rdsec lba)) hreg hcmd hp lba (Bool.and_elim_left hm)))
  refine ⟨_, hexec', rfl, fun j hj => ?_⟩
  rw [read_of_sbFull hfull hj, ← hbytes j hj]
  exact hread j hj

end Sys2Proof.Machine
end

section
/-! PROOFS. The decoder of request words (R86, R87, R89): its table of operation codes said once, and from it that
decoding and encoding undo one another and when a word is refused. -/

namespace Sys2Proof.Machine

/-! ## The zero fields of an operation -/

/-- Whether the REG field of an operation code is "0" (R87). -/
def regIsZeroAt (op : Nat) : Bool := op ∉ [5, 6]

/-- Whether the ARG field of an operation code is "0" (R87). -/
def argIsZeroAt (op : Nat) : Bool := op ∈ [1, 2, 3, 4, 5, 7]

theorem zeroFieldsHold_iff (regZero argZero : Bool) (q : RequestWord) :
    zeroFieldsHold regZero argZero q = true ↔
      mbzField q = 0 ∧ (regZero = true → regField q = 0) ∧ (argZero = true → argField q = 0) := by
  cases regZero <;> cases argZero <;> simp [zeroFieldsHold, and_assoc]

theorem withZeroFields_eq_ok_iff {regZero argZero : Bool} {q : RequestWord} {i j : Instr} :
    withZeroFields regZero argZero q i = .ok j ↔ zeroFieldsHold regZero argZero q = true ∧ i = j := by
  cases h : zeroFieldsHold regZero argZero q <;> simp [withZeroFields, h]

theorem withZeroFields_eq_error_iff {regZero argZero : Bool} {q : RequestWord} {i : Instr} {r : RefuseReason} :
    withZeroFields regZero argZero q i = .error r ↔
      zeroFieldsHold regZero argZero q = false ∧ r = .nonzeroField := by
  cases h : zeroFieldsHold regZero argZero q <;> simp [withZeroFields, h, eq_comm]

/-! ## The table of operation codes -/

/-- What the decoder takes from a word for an operation of the request port: its code, and REG and ARG where they are
not "0" (R86, R87). -/
structure CarriesFields (regZero argZero : Bool) (q : RequestWord) (i : Instr) : Prop where
  port : i.port = .request
  opCode : i.opCode = opField q
  reg : i.regOperand = if regZero then 0 else regField q
  arg : i.argOperand = if argZero then 0 else argField q

/-- A word with one of the ten operation codes is its operation once the zero fields of that code are zero (R87). -/
theorem decodeRequest_of_code {q : RequestWord} {op : Nat} (hop : (opField q).toNat = op) (hlo : 1 ≤ op)
    (hhi : op ≤ 10) :
    ∃ i, decodeRequest q = withZeroFields (regIsZeroAt op) (argIsZeroAt op) q i ∧
      CarriesFields (regIsZeroAt op) (argIsZeroAt op) q i := by
  have hcode : opField q = BitVec.ofNat 8 op := by rw [← hop, BitVec.ofNat_toNat, BitVec.setWidth_eq]
  rw [decodeRequest, hop]
  interval_cases op
  all_goals exact ⟨_, rfl, rfl, hcode.symm, rfl, rfl⟩

/-- A word with any other code is reserved (R87, R89 (2)). -/
theorem decodeRequest_of_no_code {q : RequestWord} (h : ¬(1 ≤ (opField q).toNat ∧ (opField q).toNat ≤ 10)) :
    decodeRequest q = .error .reservedOp := by
  unfold decodeRequest
  split
  case h_11 => rfl
  all_goals omega

/-! ## Decoding and encoding -/

/-- Zero fields that hold make the fields of the operation those of the word. -/
theorem CarriesFields.encodeRequest_eq {regZero argZero : Bool} {q : RequestWord} {i : Instr}
    (h : CarriesFields regZero argZero q i) (hzero : zeroFieldsHold regZero argZero q = true) :
    encodeRequest i = q := by
  obtain ⟨hmbz, hreg, harg⟩ := (zeroFieldsHold_iff regZero argZero q).mp hzero
  have hreg' : i.regOperand = regField q := by
    rw [h.reg]; split
    next hz => exact (hreg hz).symm
    · rfl
  have harg' : i.argOperand = argField q := by
    rw [h.arg]; split
    next hz => exact (harg hz).symm
    · rfl
  rw [encodeRequest, harg', ← hmbz, hreg', h.opCode, fields_of_word]

/-- Settles O4: the decoder's checks leave no bit of the word free. -/
theorem requestWordHasOneMeaning : Obligations.RequestWordHasOneMeaning := by
  intro q i hdec
  by_cases h : 1 ≤ (opField q).toNat ∧ (opField q).toNat ≤ 10
  · obtain ⟨j, heq, hj⟩ := decodeRequest_of_code rfl h.1 h.2
    rw [heq, withZeroFields_eq_ok_iff] at hdec
    obtain ⟨hzero, rfl⟩ := hdec
    exact ⟨hj.port, hj.encodeRequest_eq hzero⟩
  · simp [decodeRequest_of_no_code h] at hdec

/-- The decoder reads a request from its word. -/
theorem decodeRequest_encodeRequest {i : Instr} (h : i.port = .request) : decodeRequest (encodeRequest i) = .ok i := by
  cases i
  case spiRd | spiWr => cases h
  all_goals
    simp [decodeRequest, withZeroFields, zeroFieldsHold, opField_encodeRequest, mbzField_encodeRequest,
      regField_encodeRequest, argField_encodeRequest, Instr.opCode, Instr.regOperand, Instr.argOperand]

theorem encode_of_request {i : Instr} (h : i.port = .request) (turnaround : Byte) :
    encode turnaround i = requestBytes (encodeRequest i) := by
  cases i
  case spiRd | spiWr => cases h
  all_goals rfl

theorem decode_requestBytes {q : RequestWord} {i : Instr} (h : decodeRequest q = .ok i) :
    decode .request (requestBytes q) = .ok i := by
  simp [decode, requestBytes, requestOfBytes_requestBytes, h]

theorem decode_link {tx : List Byte} {i : Instr} (h : decodeFrame tx = .ok i) : decode .link tx = .ok i := by
  simp [decode, h]

/-- Settles O3: a request is read back from the fields of its word, a frame from its header and value. -/
theorem decodeOfEncode : Obligations.DecodeOfEncode := by
  intro turnaround i
  cases hport : i.port with
  | request =>
    rw [encode_of_request hport]
    exact decode_requestBytes (decodeRequest_encodeRequest hport)
  | link =>
    cases i
    case spiRd a => exact decode_link (decodeFrame_readFrame turnaround a)
    case spiWr a v => exact decode_link (decodeFrame_writeFrame a v)
    all_goals cases hport

/-! ## Words that are refused -/

theorem zeroFieldsHold_eq_false_iff (regZero argZero : Bool) (q : RequestWord) :
    zeroFieldsHold regZero argZero q = false ↔
      mbzField q ≠ 0 ∨ (regZero = true ∧ regField q ≠ 0) ∨ (argZero = true ∧ argField q ≠ 0) := by
  rw [← Bool.not_eq_true, zeroFieldsHold_iff]
  tauto

/-- Settles O5: the codes' zero fields are the only checks after the code itself. -/
theorem undecodableWords : Obligations.UndecodableWords := by
  intro q
  by_cases h : 1 ≤ (opField q).toNat ∧ (opField q).toNat ≤ 10
  · obtain ⟨i, heq, -⟩ := decodeRequest_of_code rfl h.1 h.2
    simp [heq, withZeroFields_eq_error_iff, zeroFieldsHold_eq_false_iff, h, regIsZeroAt, argIsZeroAt]
  · simp [decodeRequest_of_no_code h, h]

/-! ## Examples -/

/-- Settles O1. -/
theorem requestWordExamples : Obligations.RequestWordExamples := by
  unfold Obligations.RequestWordExamples
  decide

/-- Settles O2. -/
theorem frameByteExamples : Obligations.FrameByteExamples := by
  unfold Obligations.FrameByteExamples
  decide

/-- Settles O6. -/
theorem frameHeaderFields : Obligations.FrameHeaderFields := frameHeader_fields

end Sys2Proof.Machine
end

section
/-! PROOFS. What a step does with a request word and with a frame, and what is refused (R88, R89, R205). -/

namespace Sys2Proof.Machine

/-- A busy block has no move for the host (R88, U16). -/
theorem whileIdle_of_busy {s : State} (h : s.seq ≠ .idle) (move : State → Host.Outcome State Fault Refusal) :
    whileIdle s move = .fault .stuck := by
  simp [whileIdle, busy_eq, h]

theorem step_of_no_inputs {s : State} (h : s.inputs = []) : step s = waitForInput s := by
  simp [step, h]

/-- A step of an idle block that has a request word before it presents that word (R88). -/
theorem step_request {s : State} {q : RequestWord} {rest : List Input} (hidle : s.seq = .idle)
    (h : s.inputs = .request q :: rest) : step s = presentRequest q { s with inputs := rest } := by
  rw [step_of_inputs h, serveInput, whileIdle_of_idle (by exact hidle)]

/-- A step of an idle block that has a frame before it presents that frame (R90; log 7). -/
theorem step_frame {s : State} {tx : List Byte} {rest : List Input} (hidle : s.seq = .idle)
    (h : s.inputs = .frame tx :: rest) : step s = presentFrame tx { s with inputs := rest } := by
  rw [step_of_inputs h, serveInput, whileIdle_of_idle (by exact hidle)]

/-! ## What is not admitted -/

/-- While HALTED is set every instruction is refused, whatever its precondition says (R89 (1)). -/
theorem exec_of_halted (i : Instr) {s : State} (h : s.halted = true) : exec i s = .next (s.refuse .halted) := by
  rw [exec_eq, if_pos h]

/-- An instruction that is not admitted is refused, as Halted before Precondition (R89, R205). -/
theorem exec_of_unadmitted {i : Instr} {s : State} (h : s.halted = true ∨ ready i s = false) :
    exec i s = .next (s.refuse (if s.halted then .halted else .precondition)) := by
  cases hhalted : s.halted with
  | true => exact exec_of_halted i hhalted
  | false =>
    have hready : ready i s = false := h.resolve_left (by simp [hhalted])
    simp [exec_eq, hhalted, hready]

/-- Settles O16. -/
theorem unadmittedIsRefused : Obligations.UnadmittedIsRefused := fun _ _ h => exec_of_unadmitted h

/-! ## Request words and frames -/

/-- A word that decodes is its instruction; while HALTED is set both are refused alike (R89). -/
theorem presentRequest_of_decoded {q : RequestWord} {i : Instr} (hdec : decodeRequest q = .ok i) (s : State) :
    presentRequest q s = exec i s := by
  cases hhalted : s.halted with
  | true => rw [presentRequest, if_pos hhalted, exec_of_halted i hhalted]
  | false => simp [presentRequest, hhalted, hdec]

/-- A word that does not decode is refused, as Halted before any other reason (R89). -/
theorem presentRequest_of_undecodable {q : RequestWord} {reason : RefuseReason}
    (hdec : decodeRequest q = .error reason) (s : State) :
    presentRequest q s = .next (s.refuse (if s.halted then .halted else reason)) := by
  cases hhalted : s.halted <;> simp [presentRequest, hhalted, hdec]

/-- Settles O14. -/
theorem stepRunsDecodedInstruction : Obligations.StepRunsDecodedInstruction := by
  intro s rest i hidle
  refine ⟨fun q hin hdec => ?_, fun tx hin hdec => ?_⟩
  · rw [step_request hidle hin, presentRequest_of_decoded hdec]
  · simp [step_frame hidle hin, presentFrame, hdec]

/-- Settles O15: what the refusal writes is `State.refuse` field by field. -/
theorem stepRefusesUndecodable : Obligations.StepRefusesUndecodable := by
  intro s rest hidle
  refine ⟨fun q reason hin hdec => ?_, fun tx hin hdec => ?_, fun tx hin hdec => ?_⟩
  · rw [step_request hidle hin, presentRequest_of_undecodable hdec]
    rfl
  · simp [step_frame hidle hin, presentFrame, hdec]
  · simp [step_frame hidle hin, presentFrame, hdec]

/-- Settles O56. -/
theorem busyHostWaits : Obligations.BusyHostWaits := by
  intro s
  refine ⟨fun hidle h => ?_, fun hbusy h => ?_, fun q rest hbusy h => ?_, fun tx rest hbusy h => ?_,
    fun off bytes rest hbusy h => ?_, fun off n rest hbusy h => ?_⟩
  · rw [step_of_no_inputs h, waitForInput, whileIdle_of_idle hidle]
  · rw [step_of_no_inputs h, waitForInput, whileIdle_of_busy hbusy]
  all_goals rw [step_of_inputs h, serveInput, whileIdle_of_busy (by exact hbusy)]

end Sys2Proof.Machine
end

section
/-! PROOFS. The lines of a test program (R97, R98): what each mnemonic with its operands stands for, and the
arithmetic of its word. -/

namespace Sys2Proof.Machine

/-! ## Operands -/

/-- No register name is a number, so a number is read as one (R97). -/
theorem readRegOperand_of_number {t : List Char} {n : Nat} (h : readNumber t = some n) :
    readRegOperand t = some (.number n) := by
  have hne : ∀ name : List Char, readNumber name = none → t ≠ name := by
    rintro name hname rfl
    simp [hname] at h
  rw [readRegOperand, if_neg (hne _ rfl), if_neg (hne _ rfl), if_neg (hne _ rfl), if_neg (hne _ rfl),
    if_neg (hne _ rfl), h]
  rfl

theorem resolve_isSome (p : Params) (r : RegOperand) : (r.resolve p).isSome = r.wellFormed := by
  cases r with
  | number n => by_cases h : n < 64 <;> simp [RegOperand.resolve, RegOperand.wellFormed, h]
  | named r => rfl

theorem resolveWord_isSome (n : Nat) : (resolveWord n).isSome = word32WellFormed n := by
  unfold resolveWord word32WellFormed
  split
  next h => exact (decide_eq_true h).symm
  next h => exact (decide_eq_false h).symm

/-- An operation on a 32-bit operand, when the number is in range (R97). -/
theorem map_resolveWord {α : Type} (f : Word → α) (n : Nat) :
    (resolveWord n).map f = if n < 2 ^ 32 then some (f (BitVec.ofNat 32 n)) else none := by
  unfold resolveWord
  split <;> rfl

/-- What follows a register given as a number, when the number is in range (R97). -/
theorem bind_resolve_number {α : Type} (p : Params) (f : RegAddr → Option α) (n : Nat) :
    ((RegOperand.number n).resolve p).bind f = if n < 64 then f (BitVec.ofNat 6 n) else none := by
  change (if n < 64 then some (BitVec.ofNat 6 n) else none).bind f = _
  split <;> rfl

/-! ## Lines -/

/-- The request the words of a line stand for (R98). -/
def instrOfWords (p : Params) (words : List (List Char)) : Option Instr := (readLine words).bind fun l => l.toInstr p

theorem instrOfWords_rdreg {p : Params} {t : List Char} {r : RegOperand} (h : readRegOperand t = some r) :
    instrOfWords p [['R', 'D', 'R', 'E', 'G'], t] = (r.resolve p).map .rdreg := by
  change ((readRegOperand t).map AsmLine.rdreg).bind _ = _
  rw [h]
  rfl

theorem instrOfWords_wrreg {p : Params} {t u : List Char} {r : RegOperand} {v : Nat}
    (hr : readRegOperand t = some r) (hv : readNumber u = some v) :
    instrOfWords p [['W', 'R', 'R', 'E', 'G'], t, [','], u] =
      (r.resolve p).bind fun a => (resolveWord v).map (.wrreg a) := by
  have hline : readLine [['W', 'R', 'R', 'E', 'G'], t, [','], u] = some (.wrreg r v) := by
    change (match readRegOperand t, readNumber u with
      | some r, some v => some (AsmLine.wrreg r v)
      | _, _ => none) = _
    rw [hr, hv]
  rw [instrOfWords, hline, Option.bind_some, AsmLine.toInstr]
  cases r.resolve p <;> cases resolveWord v <;> rfl

theorem instrOfWords_rdsec {p : Params} {t : List Char} {n : Nat} (h : readNumber t = some n) :
    instrOfWords p [['R', 'D', 'S', 'E', 'C'], t] = (resolveWord n).map .rdsec := by
  change (readLbaLine t .rdsec).bind _ = _
  rw [readLbaLine, h]
  rfl

theorem instrOfWords_wrsec {p : Params} {t : List Char} {n : Nat} (h : readNumber t = some n) :
    instrOfWords p [['W', 'R', 'S', 'E', 'C'], t] = (resolveWord n).map .wrsec := by
  change (readLbaLine t .wrsec).bind _ = _
  rw [readLbaLine, h]
  rfl

theorem instrOfWords_erase {p : Params} {t : List Char} {n : Nat} (h : readNumber t = some n) :
    instrOfWords p [['E', 'R', 'A', 'S', 'E'], t] = (resolveWord n).map .erase := by
  change (readLbaLine t .erase).bind _ = _
  rw [readLbaLine, h]
  rfl

/-- A line has a request exactly when its operands are in range (R97). -/
theorem toInstr_isSome (p : Params) (l : AsmLine) : (l.toInstr p).isSome = l.wellFormed := by
  cases l with
  | rdreg r => simp [AsmLine.toInstr, AsmLine.wellFormed, resolve_isSome]
  | wrreg r v =>
    rw [AsmLine.wellFormed, ← resolve_isSome p, ← resolveWord_isSome, AsmLine.toInstr]
    cases r.resolve p <;> cases resolveWord v <;> rfl
  | rdsec n | wrsec n | erase n => simp [AsmLine.toInstr, AsmLine.wellFormed, resolveWord_isSome]
  | _ => rfl

/-- No line is a frame: what a line stands for is a request (R97). -/
theorem port_of_toInstr {p : Params} {l : AsmLine} {i : Instr} (h : l.toInstr p = some i) : i.port = .request := by
  cases l with
  | rdreg r =>
    obtain ⟨a, -, rfl⟩ := Option.map_eq_some_iff.mp h
    rfl
  | wrreg r v =>
    rw [AsmLine.toInstr] at h
    split at h <;> cases h
    rfl
  | rdsec n | wrsec n | erase n =>
    obtain ⟨w, -, rfl⟩ := Option.map_eq_some_iff.mp h
    rfl
  | _ =>
    cases h
    rfl

/-! ## Words -/

/-- Side by side, the first word counts above the second. -/
theorem toNat_append_eq_add {a b : Nat} (x : BitVec a) (y : BitVec b) :
    (x ++ y).toNat = x.toNat * 2 ^ b + y.toNat := by
  rw [BitVec.toNat_append, ← Nat.shiftLeft_add_eq_or_of_lt y.isLt, Nat.shiftLeft_eq]

/-- The number a request word is: OP, REG and ARG in their places (R86). -/
theorem encodeRequest_toNat (i : Instr) :
    (encodeRequest i).toNat = i.opCode.toNat + i.regOperand.toNat * 2 ^ 8 + i.argOperand.toNat * 2 ^ 16 := by
  have hmbz : (0 : BitVec 2).toNat = 0 := rfl
  rw [encodeRequest, toNat_append_eq_add, toNat_append_eq_add, toNat_append_eq_add, hmbz]
  omega

/-- Settles O57: each line by its operands, the words by their fields. -/
theorem linesAreRequests : Obligations.LinesAreRequests := by
  intro p line names
  refine ⟨⟨rfl, rfl, rfl, rfl, rfl⟩, fun x hx => ?named, fun t n ht => ?number, rfl, fun a v => ?word,
    fun l => ?line⟩
  case named =>
    obtain ⟨r, hr, hx⟩ : ∃ r : RegName, readRegOperand x.1 = some (.named r) ∧ r.parameter p = x.2 := by
      simp only [names, List.mem_cons, List.not_mem_nil, or_false] at hx
      obtain rfl | rfl | rfl | rfl | rfl := hx
      exacts [⟨.config, rfl, rfl⟩, ⟨.status, rfl, rfl⟩, ⟨.command, rfl, rfl⟩, ⟨.address, rfl, rfl⟩,
        ⟨.data, rfl, rfl⟩]
    rw [← hx]
    exact ⟨instrOfWords_rdreg hr, fun u v hu => (instrOfWords_wrreg hr hu).trans (map_resolveWord _ v)⟩
  case number =>
    have hr : readRegOperand t = some (.number n) := readRegOperand_of_number ht
    refine ⟨(instrOfWords_rdreg hr).trans ?_, fun u v hu => (instrOfWords_wrreg hr hu).trans ?_,
      (instrOfWords_rdsec ht).trans (map_resolveWord _ n), (instrOfWords_wrsec ht).trans (map_resolveWord _ n),
      (instrOfWords_erase ht).trans (map_resolveWord _ n)⟩
    · rw [Option.map_eq_bind, bind_resolve_number]
      rfl
    · rw [bind_resolve_number, map_resolveWord, ite_and]
  case word =>
    simp [encodeRequest_toNat, Instr.opCode, Instr.regOperand, Instr.argOperand]
  case line =>
    rw [← toInstr_isSome p, Option.isSome_iff_exists]
    exact ⟨Iff.rfl, fun i => port_of_toInstr⟩

end Sys2Proof.Machine
end

section
/-! PROOFS. The Bit-Order Codec (R100 to R104): the byte reversal bit by bit, its laws, the nibble table and the
buffer forms. -/

namespace Sys2Proof.Machine

/-! ## The reversal, bit by bit -/

/-- Bit `i` of the reversal is bit `7 - i` of the byte (R100). -/
theorem getLsbD_rev8 (b : Byte) {i : Nat} (hi : i < 8) : (rev8 b).getLsbD i = b.getLsbD (7 - i) := by
  simp only [rev8, BitVec.getLsbD_append, BitVec.getLsbD_extractLsb']
  interval_cases i <;> simp

/-- The reversal is the only byte with those bits. -/
theorem rev8_eq_of_bits {b c : Byte} (h : ∀ i < 8, c.getLsbD i = b.getLsbD (7 - i)) : rev8 b = c :=
  BitVec.eq_of_getLsbD_eq fun i hi => (getLsbD_rev8 b hi).trans (h i hi).symm

theorem rev8_and (a b : Byte) : rev8 (a &&& b) = rev8 a &&& rev8 b :=
  rev8_eq_of_bits fun i hi => by simp only [BitVec.getLsbD_and, getLsbD_rev8 _ hi]

theorem rev8_or (a b : Byte) : rev8 (a ||| b) = rev8 a ||| rev8 b :=
  rev8_eq_of_bits fun i hi => by simp only [BitVec.getLsbD_or, getLsbD_rev8 _ hi]

theorem rev8_xor (a b : Byte) : rev8 (a ^^^ b) = rev8 a ^^^ rev8 b :=
  rev8_eq_of_bits fun i hi => by simp only [BitVec.getLsbD_xor, getLsbD_rev8 _ hi]

theorem rev8_not (a : Byte) : rev8 (~~~a) = ~~~(rev8 a) :=
  rev8_eq_of_bits fun i hi => by
    have hflip : 7 - i < 8 := by omega
    simp only [BitVec.getLsbD_not, getLsbD_rev8 _ hi, hi, hflip]

theorem rev8_involutive : Function.Involutive rev8 := rev8_rev8

/-- Settles O8: each Boolean law holds bit by bit, and an involution is a bijection. -/
theorem codecLaws : Obligations.CodecLaws :=
  ⟨rev8_rev8, rfl, rfl, rfl, rev8_involutive.bijective, rev8_and, rev8_or, rev8_xor, rev8_not,
    fun b => getLsbD_rev8 b (by decide)⟩

/-! ## The nibble table -/

/-- The table holds the reversals of the sixteen nibbles (R101). -/
theorem getLsbD_nib (n : BitVec 4) : ∀ i < 4, (nib n).getLsbD i = n.getLsbD (3 - i) := by
  revert n
  decide

/-- The high nibble goes reversed into bits 3 to 0, the low one into bits 7 to 4 (R101). -/
theorem rev8ByNibbles_eq_rev8 (b : Byte) : rev8ByNibbles b = rev8 b := by
  refine (rev8_eq_of_bits fun i hi => ?_).symm
  simp only [rev8ByNibbles, BitVec.getLsbD_or, BitVec.getLsbD_shiftLeft, BitVec.getLsbD_setWidth]
  obtain hlow | hhigh := Nat.lt_or_ge i 4
  · have hnib : (nib (b.extractLsb' 4 4)).getLsbD i = b.getLsbD (7 - i) := by
      rw [getLsbD_nib _ i hlow, BitVec.getLsbD_extractLsb', show 4 + (3 - i) = 7 - i by omega]
      simp [show 3 - i < 4 by omega]
    simp only [hnib, hi, hlow, decide_true, Bool.not_true, Bool.and_false, Bool.false_and, Bool.false_or,
      Bool.true_and]
  · have hnib : (nib (b.extractLsb' 0 4)).getLsbD (i - 4) = b.getLsbD (7 - i) := by
      rw [getLsbD_nib _ (i - 4) (by omega), BitVec.getLsbD_extractLsb', show 0 + (3 - (i - 4)) = 7 - i by omega]
      simp [show 3 - (i - 4) < 4 by omega]
    have hshift : i - 4 < 8 := by omega
    simp [hnib, hi, hhigh, hshift]

/-- Settles O9. -/
theorem nibbleTableIsReversal : Obligations.NibbleTableIsReversal :=
  fun b => ⟨rev8ByNibbles_eq_rev8 b, fun _ => getLsbD_rev8 b⟩

/-! ## Buffers -/

/-- The in-place form reverses the first `n` bytes and keeps the rest (R103). -/
theorem rev8InPlace_eq_take_drop (buf : List Byte) (n : Nat) :
    rev8InPlace buf n = (buf.take n).map rev8 ++ buf.drop n := by
  induction buf, n using rev8InPlace.induct with
  | case1 buf => simp [rev8InPlace]
  | case2 n => simp [rev8InPlace]
  | case3 b rest n ih => simp [rev8InPlace, ih]

/-- The in-place form is its own inverse, byte by byte (R103). -/
theorem rev8InPlace_rev8InPlace (buf : List Byte) (n : Nat) : rev8InPlace (rev8InPlace buf n) n = buf := by
  induction buf, n using rev8InPlace.induct with
  | case1 buf => simp only [rev8InPlace]
  | case2 n => simp only [rev8InPlace]
  | case3 b rest n ih => simp only [rev8InPlace, rev8_rev8, ih]

/-- The copy form fills a destination of the source's length with the source's reversals (R104). -/
theorem rev8Copy_eq_map (src dst : List Byte) (hlen : src.length = dst.length) :
    rev8Copy src dst src.length = src.map rev8 := by
  induction src generalizing dst with
  | nil => simpa [rev8Copy] using hlen.symm
  | cons b src ih =>
    cases dst with
    | nil => cases hlen
    | cons c dst =>
      have hrest : src.length = dst.length := Nat.succ.inj hlen
      simp only [List.length_cons, rev8Copy, List.map_cons, ih dst hrest]

/-- Settles O10. -/
theorem bufferForms : Obligations.BufferForms :=
  ⟨rev8InPlace_eq_take_drop, rev8InPlace_rev8InPlace, rev8Copy_eq_map⟩

end Sys2Proof.Machine
end

section
/-! PROOFS. The Register Link with a transport that completes: the handshake requests, a register transaction as a
request and as a frame by itself, the exit sequence, and CS_N after a transfer. -/

namespace Sys2Proof.Machine

/-! ## The handshake bodies when the transport completes -/

/-- The block after OPEN's body completed: as it was if the link was open, else after OPEN's seven events (R118). -/
def State.opened (s : State) : State :=
  if s.linkOpen then s else { s.afterEvents (openEvents s.params) with linkOpen := true }

theorem State.opened_of_open {s : State} (h : s.linkOpen = true) : s.opened = s := if_pos h

theorem State.opened_of_closed {s : State} (h : s.linkOpen = false) :
    s.opened = { s.afterEvents (openEvents s.params) with linkOpen := true } := by
  simp [State.opened, h]

section
variable {s : State} (hc : s.TransportCompletes)
include hc

theorem State.opened_completes : s.opened.TransportCompletes := by
  unfold State.opened
  split
  · exact hc
  · exact completes_drop hc _

theorem openBody_completes : openBody s = .ok () s.opened := by
  unfold openBody State.opened
  split
  · rfl
  · rw [emitAll_completes _ hc, Run.bind_ok]

theorem closeBody_completes : closeBody s =
    .ok () { (s.afterEvents closeEvents).endSession with
      linkOpen := false
      device := s.device.closed (Config.freeBool s.draws)
      draws := s.draws + 1 } := by
  rw [closeBody, emitAll_completes _ hc, Run.bind_ok]
  rfl

theorem enterBody_completes : enterBody s =
    .ok () { s.afterEvents (enterEvents s.params) with device := s.device.entered } := by
  rw [enterBody, emitAll_completes _ hc, Run.bind_ok]
  rfl

theorem leaveBody_completes : leaveBody s =
    .ok () { (s.afterEvents (leaveEvents s.params)).endSession with device := s.device.left } := by
  rw [leaveBody, emitAll_completes _ hc, Run.bind_ok]
  rfl

end

/-- An admitted instruction whose body goes on is concluded without an error. -/
theorem exec_of_body_ok (i : Instr) {s t : State} (hh : s.halted = false) (hready : ready i s = true)
    (hbody : bodyOf i (s.begin i) = .ok () t) : exec i s = .next (concludeOn i.port (.ok () t)) := by
  simp [exec_eq, hh, hready, hbody]

/-! ## OPEN, CLOSE and ENTER -/

/-- Settles O17: OPEN's body is empty on an open link and its seven events on a closed one. -/
theorem openCompletes : Obligations.OpenCompletes := by
  intro s hh hc
  have hexec := exec_of_body_ok .openLink hh rfl (openBody_completes (s := s.begin .openLink) hc)
  refine ⟨fun hopen => ?_, fun hclosed => ?_⟩
  · rw [hexec, State.opened_of_open (s := s.begin .openLink) hopen]
    rfl
  · rw [hexec, State.opened_of_closed (s := s.begin .openLink) hclosed]
    rfl

/-- Settles O18. -/
theorem closeCompletes : Obligations.CloseCompletes := by
  intro s hh hopen hc
  rw [exec_of_body_ok .closeLink hh hopen (closeBody_completes (s := s.begin .closeLink) hc)]
  rfl

/-- Settles O19. -/
theorem enterCompletes : Obligations.EnterCompletes := by
  intro s hh hopen hc
  rw [exec_of_body_ok .enter hh hopen (enterBody_completes (s := s.begin .enter) hc)]
  rfl

/-! ## The exit sequence -/

/-- The last `Pin` event on a line is in the rest of a sequence, or it is the first step. -/
theorem lastLevel_cons (l : ControlLine) (e : LeaveStep) (rest : List LeaveStep) :
    lastLevel l (e :: rest) = (lastLevel l rest).or (lastLevel l [e]) := by
  cases e <;> cases h : lastLevel l rest <;> simp [lastLevel, h]

theorem lastLevel_append (l : ControlLine) (xs ys : List LeaveStep) :
    lastLevel l (xs ++ ys) = (lastLevel l ys).or (lastLevel l xs) := by
  induction xs with
  | nil => simp [lastLevel]
  | cons e rest ih => rw [List.cons_append, lastLevel_cons, ih, lastLevel_cons l e rest, Option.or_assoc]

/-- One step drives a line to a level exactly if it is that `Pin` event. -/
theorem lastLevel_singleton_eq_some {l : ControlLine} {e : LeaveStep} {v : Bool} :
    lastLevel l [e] = some v ↔ e = .pin l v := by
  cases e <;> simp [lastLevel]

theorem lastLevel_eq_none {l : ControlLine} {seq : List LeaveStep} :
    lastLevel l seq = none ↔ ∀ level, .pin l level ∉ seq := by
  induction seq with
  | nil => simp [lastLevel]
  | cons e rest ih =>
    have hfirst : lastLevel l [e] = none ↔ ∀ level, .pin l level ≠ e := by
      rw [Option.eq_none_iff_forall_ne_some]
      exact forall_congr' fun level => not_congr (lastLevel_singleton_eq_some.trans eq_comm)
    rw [lastLevel_cons, Option.or_eq_none_iff, ih, hfirst, and_comm, ← forall_and]
    simp only [List.mem_cons, not_or, ne_eq]

/-- The last level of a line is what the last `Pin` event on it drives (R125). -/
theorem lastLevel_eq_some {l : ControlLine} {seq : List LeaveStep} {v : Bool} :
    lastLevel l seq = some v ↔
      ∃ before after, seq = before ++ .pin l v :: after ∧ ∀ level, .pin l level ∉ after := by
  constructor
  · intro h
    induction seq with
    | nil => cases h
    | cons e rest ih =>
      rw [lastLevel_cons, Option.or_eq_some_iff] at h
      obtain h | ⟨hrest, hfirst⟩ := h
      · obtain ⟨before, after, rfl, hafter⟩ := ih h
        exact ⟨e :: before, after, rfl, hafter⟩
      · exact ⟨[], rest, by rw [lastLevel_singleton_eq_some.mp hfirst, List.nil_append], lastLevel_eq_none.mp hrest⟩
  · rintro ⟨before, after, rfl, hafter⟩
    rw [lastLevel_append, lastLevel_cons, lastLevel_eq_none.mpr hafter, lastLevel_singleton_eq_some.mpr rfl]
    rfl

theorem leaveSeqAdmissible_iff (seq : List LeaveStep) :
    leaveSeqAdmissible seq = true ↔ ∀ l, lastLevel l seq = some true := by
  simp only [leaveSeqAdmissible, Bool.and_eq_true, beq_iff_eq]
  refine ⟨fun ⟨⟨hA, hB⟩, hC⟩ l => ?_, fun h => ⟨⟨h .hsA, h .hsB⟩, h .csN⟩⟩
  cases l with
  | hsA => exact hA
  | hsB => exact hB
  | csN => exact hC

/-- Settles O21: a sequence has an admissible last level on a line where it splits at the line's last `Pin` event. -/
theorem leaveSequences : Obligations.LeaveSequences := by
  refine ⟨fun seq => ?_, by decide, fun p => ⟨rfl, fun ps hA hB => ⟨?_, rfl, rfl, rfl⟩⟩⟩
  · simp only [leaveSeqAdmissible_iff, lastLevel_eq_some]
  · -- the first group drives CS_N only
    show (ps.hsA.level, ps.hsB.level, some true) = _
    rw [hA, hB]

theorem Pins.ext_get {ps qs : Pins} (h : ∀ l, ps.get l = qs.get l) : ps = qs := by
  obtain ⟨a, b, c⟩ := ps
  obtain ⟨a', b', c'⟩ := qs
  rw [show a = a' from h .hsA, show b = b' from h .hsB, show c = c' from h .csN]

/-- A step of the exit sequence drives the line it names and no other. -/
theorem drivePins_leaveEvent_get (p : Params) (e : LeaveStep) (ps : Pins) (l : ControlLine) :
    (drivePins (leaveEvent p e) ps).get l = { ps.get l with level := (lastLevel l [e]).or (ps.get l).level } := by
  cases e with
  | delay t => rfl
  | pin m v =>
    show (ps.set m _).get l = _
    rw [Pins.get_set]
    by_cases h : l = m
    · subst h
      simp [lastLevel]
    · simp [lastLevel, h, Ne.symm h]

/-- The exit sequence leaves each line at the level its last `Pin` event drives (R125). -/
theorem foldl_leaveEvents_get (p : Params) (seq : List LeaveStep) (ps : Pins) (l : ControlLine) :
    ((seq.map (leaveEvent p)).foldl (fun qs e => drivePins e qs) ps).get l =
      { ps.get l with level := (lastLevel l seq).or (ps.get l).level } := by
  induction seq generalizing ps with
  | nil => rfl
  | cons e rest ih =>
    rw [List.map_cons, List.foldl_cons, ih, drivePins_leaveEvent_get, lastLevel_cons l e rest, Option.or_assoc]

/-- An admissible exit sequence leaves all three lines at level 1 (R125). -/
theorem foldl_leaveEvents_of_admissible {seq : List LeaveStep} (h : leaveSeqAdmissible seq = true) (p : Params)
    (ps : Pins) :
    (seq.map (leaveEvent p)).foldl (fun qs e => drivePins e qs) ps =
      ⟨⟨ps.hsA.dir, some true⟩, ⟨ps.hsB.dir, some true⟩, ⟨ps.csN.dir, some true⟩⟩ := by
  refine Pins.ext_get fun l => ?_
  rw [foldl_leaveEvents_get, (leaveSeqAdmissible_iff seq).mp h l]
  cases l <;> rfl

/-- Settles O20: the lines end where the sequence's last `Pin` events drive them. -/
theorem leaveCompletes : Obligations.LeaveCompletes := by
  intro s hh hopen hc hadm
  rw [exec_of_body_ok .leave hh hopen (leaveBody_completes (s := s.begin .leave) hc),
    ← foldl_leaveEvents_of_admissible hadm s.params]
  rfl

/-! ## Register transactions -/

/-- Settles O22. -/
theorem rdregCompletes : Obligations.RdregCompletes := by
  intro a s hh hopen hc tx r
  have hbody : rdregBody a (s.begin (.rdreg a)) =
      .ok () { (s.begin (.rdreg a)).afterPulse tx with value := some (replyValue r.bytes) } := by
    rw [rdregBody, regRead_completes a (by exact hc), Run.bind_ok]
    rfl
  rw [exec_of_body_ok (.rdreg a) hh hopen hbody]
  rfl

/-- Settles O23. -/
theorem wrregCompletes : Obligations.WrregCompletes := by
  intro a v s hh hopen hc tx r
  rw [exec_of_body_ok (.wrreg a v) hh hopen (regWrite_completes a v (s := s.begin (.wrreg a v)) hc)]
  rfl

/-- Settles O24: a frame by itself is concluded without writing RESULT. -/
theorem readFrameCompletes : Obligations.ReadFrameCompletes := by
  intro a s hh hopen hc tx r
  have hbody : bodyOf (.spiRd a) (s.begin (.spiRd a)) = .ok () ((s.begin (.spiRd a)).afterPulse tx) := by
    show (regRead a _).bind _ = _
    rw [regRead_completes a (by exact hc), Run.bind_ok]
    rfl
  rw [exec_of_body_ok (.spiRd a) hh hopen hbody]
  rfl

/-- Settles O25: a frame by itself is concluded without writing RESULT. -/
theorem writeFrameCompletes : Obligations.WriteFrameCompletes := by
  intro a v s hh hopen hc tx r
  rw [exec_of_body_ok (.spiWr a v) hh hopen (regWrite_completes a v (s := s.begin (.spiWr a v)) hc)]
  rfl

/-! ## CS_N after a transfer -/

/-- The transport completes what is left, and if a byte was moved CS_N is at level 1: so it is between the register
transactions of a request (R111, R112). -/
structure Released (s : State) : Prop where
  completes : s.TransportCompletes
  csHigh : transfersOf s.trace ≠ [] → s.pins.csN.level = some true

/-- No byte was moved. -/
theorem Released.of_noTransfer {s : State} (hc : s.TransportCompletes) (h : transfersOf s.trace = []) : Released s :=
  ⟨hc, fun hne => absurd h hne⟩

section
variable {s : State}

theorem transact_released (tx : List Byte) (hc : s.TransportCompletes) : Released (transact tx s).state := by
  rw [transact_completes tx hc]
  exact ⟨State.afterPulse_completes hc tx, fun _ => rfl⟩

theorem regRead_released (a : RegAddr) (hc : s.TransportCompletes) : Released (regRead a s).state :=
  Run.state_bind (transact_released _ hc) fun _ _ ht => ht

theorem regWrite_released (a : RegAddr) (v : Word) (hc : s.TransportCompletes) : Released (regWrite a v s).state :=
  Run.state_bind (transact_released _ hc) fun _ _ ht => ht

theorem emit_delay_released (d : Nat) (h : Released s) : Released (emit (.delay d) s).state := by
  rw [emit_completes _ h.completes]
  refine ⟨completes_drop h.completes 1, fun hne => h.csHigh fun hnil => hne ?_⟩
  rw [Run.state_ok, State.completeEvent_trace, transfersOf_append, hnil]
  rfl

theorem clearStatus_released (hc : s.TransportCompletes) : Released (clearStatus s).state :=
  Run.state_bind (regRead_released _ hc) fun _ _ ht => regWrite_released _ _ ht.completes

theorem enableWrite_released (hc : s.TransportCompletes) : Released (enableWrite s).state :=
  Run.state_bind (regRead_released _ hc) fun _ _ ht => regWrite_released _ _ ht.completes

theorem pollLoop_released (stage : Stage) (p left : Nat) {s : State} (h : Released s) :
    Released (pollLoop stage p left s).state := by
  induction left generalizing p s with
  | zero => exact h
  | succ left ih =>
    unfold pollLoop
    refine Run.state_bind (regRead_released _ h.completes) fun st t ht => ?_
    split
    · exact ht
    · cases left with
      | zero => exact ht
      | succ left => exact Run.state_bind (emit_delay_released _ ht) fun _ _ hu => ih (p + 1) hu

theorem waitReady_released (stage : Stage) (h : Released s) : Released (waitReady stage s).state :=
  pollLoop_released stage 1 _ h

theorem eraseBody_released (lba : Word) (hc : s.TransportCompletes) : Released (eraseBody lba s).state :=
  Run.state_bind (clearStatus_released hc) fun _ _ h => Run.state_bind (enableWrite_released h.completes) fun _ _ h =>
    Run.state_bind (regWrite_released _ _ h.completes) fun _ _ h =>
      Run.state_bind (regWrite_released _ _ h.completes) fun _ _ h =>
        Run.state_bind (regWrite_released _ _ h.completes) fun _ _ h =>
          Run.state_bind (regWrite_released _ _ h.completes) fun _ _ h => waitReady_released _ h

theorem eraseFirst_released (lba : Word) (h : Released s) : Released (eraseFirst lba s).state := by
  unfold eraseFirst
  split
  · exact eraseBody_released lba h.completes
  · exact h

theorem writeWords_released (n i : Nat) {s : State} (h : Released s) : Released (writeWords n i s).state := by
  induction n generalizing i s with
  | zero => exact h
  | succ n ih =>
    exact Run.state_bind (regWrite_released _ _ h.completes) fun _ _ h =>
      Run.state_bind (regWrite_released _ _ h.completes) fun _ _ h => ih (i + 1) h

theorem wrsecBody_released (lba : Word) (h : Released s) : Released (wrsecBody lba s).state :=
  Run.state_bind (eraseFirst_released lba h) fun _ _ h => Run.state_bind (clearStatus_released h.completes) fun _ _ h =>
    Run.state_bind (regWrite_released _ _ h.completes) fun _ _ h =>
      Run.state_bind (writeWords_released _ _ h) fun _ _ h => Run.state_bind (waitReady_released _ h) fun _ _ h =>
        Run.state_bind (regWrite_released _ _ h.completes) fun _ _ h =>
          Run.state_bind (waitReady_released _ h) fun _ _ h =>
            Run.state_bind (regWrite_released _ _ h.completes) fun _ _ h =>
              Run.state_bind (regWrite_released _ _ h.completes) fun _ _ h =>
                Run.state_bind (regWrite_released _ _ h.completes) fun _ _ h => waitReady_released _ h

theorem readWords_released (n i : Nat) {s : State} (h : Released s) : Released (readWords n i s).state := by
  induction n generalizing i s with
  | zero => exact h
  | succ n ih =>
    exact Run.state_bind (regWrite_released _ _ h.completes) fun _ _ h =>
      Run.state_bind (regRead_released _ h.completes) fun _ _ h => ih (i + 1) ⟨h.completes, h.csHigh⟩

theorem rdsecBody_released (lba : Word) (hc : s.TransportCompletes) : Released (rdsecBody lba s).state :=
  Run.state_bind (clearStatus_released hc) fun _ _ h =>
    Run.state_bind (regWrite_released _ _ h.completes) fun _ _ h =>
      Run.state_bind (regWrite_released _ _ h.completes) fun _ _ h =>
        Run.state_bind (waitReady_released _ h) fun _ _ h =>
          Run.state_bind (regWrite_released _ _ h.completes) fun _ _ h => readWords_released _ _ h

theorem loseSB_released {r : Run Unit} (h : Released r.state) : Released (loseSB r).state := by
  obtain ⟨-, m, k, hs, -⟩ := loseSB_state r
  rw [hs]
  exact ⟨h.completes, h.csHigh⟩

/-- What INIT does with the second configuration read emits nothing. -/
theorem adoptGeometry_released (v : Word) (h : Released s) : Released (adoptGeometry v s).state := by
  unfold adoptGeometry
  split <;> exact ⟨h.completes, h.csHigh⟩

theorem showCachedRaw_released (h : Released s) : Released s.showCachedRaw := by
  unfold State.showCachedRaw
  split
  · exact ⟨h.completes, h.csHigh⟩
  · exact h

/-- ENTER leaves CS_N at level 0, and INIT's reads raise it again. -/
theorem initBody_released (h : Released s) : Released (initBody s).state := by
  unfold initBody
  split
  · exact showCachedRaw_released h
  · have hopened := State.opened_completes h.completes
    rw [openBody_completes h.completes, Run.bind_ok, enterBody_completes hopened, Run.bind_ok]
    exact Run.state_bind (regRead_released _ (completes_drop hopened _)) fun _ _ h =>
      Run.state_bind (regRead_released _ h.completes) fun v _ h => adoptGeometry_released v h

/-- The exit sequence moves no byte (R125 (1)). -/
theorem transfersOf_leaveEvents (p : Params) : transfersOf (leaveEvents p) = [] := by
  refine List.filterMap_eq_nil_iff.mpr fun e he => ?_
  obtain ⟨x, -, rfl⟩ := List.mem_map.mp he
  cases x <;> rfl

/-- A body that begins with events without a transfer, and ends with what keeps CS_N released. -/
theorem emitAll_bind_released {es : List BusEvent} {f : Unit → State → Run Unit} (hc : s.TransportCompletes)
    (htrace : s.trace = []) (hes : transfersOf es = [])
    (hf : ∀ t, Released t → Released (f () t).state) : Released ((emitAll es s).bind f).state := by
  rw [emitAll_completes es hc, Run.bind_ok]
  refine hf _ (.of_noTransfer (completes_drop hc _) ?_)
  rw [State.afterEvents, htrace]
  exact hes

/-- At the end of every body CS_N is released. -/
theorem bodyOf_released (i : Instr) (hc : s.TransportCompletes) (htrace : s.trace = []) :
    Released (bodyOf i s).state := by
  have hs : Released s := .of_noTransfer hc (by rw [htrace]; rfl)
  cases i with
  | openLink =>
    show Released (openBody s).state
    unfold openBody
    split
    · exact hs
    · exact emitAll_bind_released hc htrace rfl fun _ ht => ⟨ht.completes, ht.csHigh⟩
  | closeLink => exact emitAll_bind_released hc htrace rfl fun _ ht => ⟨ht.completes, ht.csHigh⟩
  | enter => exact emitAll_bind_released hc htrace rfl fun _ ht => ⟨ht.completes, ht.csHigh⟩
  | leave =>
    exact emitAll_bind_released hc htrace (transfersOf_leaveEvents _) fun _ ht => ⟨ht.completes, ht.csHigh⟩
  | rdreg a => exact Run.state_bind (regRead_released a hc) fun _ _ ht => ⟨ht.completes, ht.csHigh⟩
  | wrreg a v => exact regWrite_released a v hc
  | init => exact initBody_released hs
  | rdsec lba => exact loseSB_released (rdsecBody_released lba hc)
  | wrsec lba => exact wrsecBody_released lba hs
  | erase lba => exact eraseBody_released lba hc
  | spiRd a => exact Run.state_bind (regRead_released a hc) fun _ _ ht => ht
  | spiWr a v => exact regWrite_released a v hc

end

/-- Settles O49: a refusal has no transfer, and a body releases CS_N however it ends. -/
theorem chipSelectReleased : Obligations.ChipSelectReleased := by
  intro i s t hc h hmoved
  obtain ⟨reason, rfl⟩ | ⟨-, hconcl⟩ := exec_cases_of_noReset h (noReset_of_completes hc)
  · exact absurd rfl hmoved
  · rw [hconcl.fields] at hmoved ⊢
    exact (bodyOf_released i (s := s.begin i) hc rfl).csHigh hmoved

end Sys2Proof.Machine
end

section
/-! PROOFS. The Geometry Decoder (42_geometry.md): what a word decodes to by the kind of its cell in the table of R143,
and from that the table, the ranges of R147 and the bits the decoder reads (R148). -/

namespace Sys2Proof.Machine

variable {limit : Option Nat} {raw : Word} {g : FlashGeometry} {pages blocks shift fs : Nat} {c b : BitVec 2}

/-! ## The decoder by the kind of the word's cell -/

/-- The zero word lies in an invalid cell as well (R145), so only the cell says whether a word decodes. -/
theorem decodeGeometry_of_invalid (hcell : geometryCell (controllerTypeOf raw) (blockTypeOf raw) = .invalid) :
    decodeGeometry limit raw = none := by
  simp [decodeGeometry, hcell]

theorem ne_zero_of_cell (hcell : geometryCell (controllerTypeOf raw) (blockTypeOf raw) ≠ .invalid) : raw ≠ 0 := by
  rintro rfl
  exact hcell rfl

theorem decodeGeometry_of_fixed
    (hcell : geometryCell (controllerTypeOf raw) (blockTypeOf raw) = .fixed pages blocks fs) :
    decodeGeometry limit raw = some ⟨raw, controllerTypeOf raw, blockTypeOf raw, 512, pages, blocks, fs⟩ := by
  have hraw : raw ≠ 0 := ne_zero_of_cell (by simp [hcell])
  rw [decodeGeometry, if_neg hraw, hcell]

theorem decodeGeometry_of_formula
    (hcell : geometryCell (controllerTypeOf raw) (blockTypeOf raw) = .formula pages shift fs) :
    decodeGeometry limit raw =
      if overShiftLimit limit (extraOf raw) then none
      else some ⟨raw, controllerTypeOf raw, blockTypeOf raw, 512, pages, formulaBlocks (extraOf raw) shift, fs⟩ := by
  have hraw : raw ≠ 0 := ne_zero_of_cell (by simp [hcell])
  rw [decodeGeometry, if_neg hraw, hcell]

theorem overShiftLimit_iff {extra : Nat} :
    overShiftLimit limit extra = true ↔ ∃ n, limit = some n ∧ n ≤ extra + 23 := by
  cases limit <;> simp [overShiftLimit]

theorem decodeGeometry_of_refused
    (hcell : geometryCell (controllerTypeOf raw) (blockTypeOf raw) = .formula pages shift fs)
    (h : ∃ n, limit = some n ∧ n ≤ extraOf raw + 23) : decodeGeometry limit raw = none :=
  (decodeGeometry_of_formula hcell).trans (if_pos (overShiftLimit_iff.mpr h))

theorem decodeGeometry_of_not_refused
    (hcell : geometryCell (controllerTypeOf raw) (blockTypeOf raw) = .formula pages shift fs)
    (h : ¬∃ n, limit = some n ∧ n ≤ extraOf raw + 23) :
    decodeGeometry limit raw =
      some ⟨raw, controllerTypeOf raw, blockTypeOf raw, 512, pages, formulaBlocks (extraOf raw) shift, fs⟩ :=
  (decodeGeometry_of_formula hcell).trans (if_neg fun hover => h (overShiftLimit_iff.mp hover))

/-- R144: the shifts lose no bit, so the formula is a power of two. -/
theorem formulaBlocks_eq_two_pow {extra : Nat} (h : shift ≤ extra + 23) :
    formulaBlocks extra shift = 2 ^ (extra + 23 - shift) := by
  rw [formulaBlocks, Nat.one_shiftLeft, Nat.shiftRight_eq_div_pow, Nat.pow_div h (by decide)]

/-! ## The table's cells -/

theorem geometryCell_eq_invalid_iff : geometryCell c b = .invalid ↔ c = 3 ∨ b = 0 := by
  revert c b
  decide

theorem geometryCell_blockType_two (hc : c = 1 ∨ c = 2) : geometryCell c 2 = .formula 0x100 17 0x1E0 := by
  obtain rfl | rfl := hc <;> rfl

theorem geometryCell_blockType_three (hc : c = 1 ∨ c = 2) : geometryCell c 3 = .formula 0x200 18 0xF0 := by
  obtain rfl | rfl := hc <;> rfl

/-- Outside the invalid cells, controller type 0 and block type 1 have constant block counts. -/
theorem geometryCell_constant (hvalid : ¬(c = 3 ∨ b = 0)) (h : c = 0 ∨ b = 1) :
    ∃ blocks ∈ [0x400, 0x800, 0x1000], ∃ fs ∈ [0x3E0, 0x7C0, 0xF80], geometryCell c b = .fixed 0x20 blocks fs := by
  revert c b
  decide

theorem geometryCell_eq_formula_iff :
    (∃ pages shift fs, geometryCell c b = .formula pages shift fs) ↔ c ∈ [1#2, 2#2] ∧ b ∈ [2#2, 3#2] := by
  constructor
  · rintro ⟨pages, shift, fs, hcell⟩
    unfold geometryCell at hcell
    split at hcell <;> simp_all [BitVec.toNat_eq]
  · rintro ⟨hc, hb⟩
    have hc : c = 1 ∨ c = 2 := by simpa using hc
    obtain rfl | rfl : b = 2 ∨ b = 3 := by simpa using hb
    · exact ⟨_, _, _, geometryCell_blockType_two hc⟩
    · exact ⟨_, _, _, geometryCell_blockType_three hc⟩

/-! ## A word that decodes -/

theorem valid_of_decode (h : decodeGeometry limit raw = some g) :
    ¬(controllerTypeOf raw = 3 ∨ blockTypeOf raw = 0) := by
  intro hinvalid
  rw [decodeGeometry_of_invalid (geometryCell_eq_invalid_iff.mpr hinvalid)] at h
  cases h

theorem eq_of_decode_fixed
    (hcell : geometryCell (controllerTypeOf raw) (blockTypeOf raw) = .fixed pages blocks fs)
    (h : decodeGeometry limit raw = some g) :
    g = ⟨raw, controllerTypeOf raw, blockTypeOf raw, 512, pages, blocks, fs⟩ := by
  rw [decodeGeometry_of_fixed hcell] at h
  exact (Option.some.inj h).symm

theorem eq_of_decode_formula
    (hcell : geometryCell (controllerTypeOf raw) (blockTypeOf raw) = .formula pages shift fs)
    (h : decodeGeometry limit raw = some g) :
    g = ⟨raw, controllerTypeOf raw, blockTypeOf raw, 512, pages, formulaBlocks (extraOf raw) shift, fs⟩ := by
  rw [decodeGeometry_of_formula hcell] at h
  split at h
  · cases h
  · exact (Option.some.inj h).symm

theorem types_of_decode (h : decodeGeometry limit raw = some g) :
    g.controllerType = controllerTypeOf raw ∧ g.blockType = blockTypeOf raw := by
  cases hcell : geometryCell (controllerTypeOf raw) (blockTypeOf raw) with
  | invalid => exact absurd (geometryCell_eq_invalid_iff.mp hcell) (valid_of_decode h)
  | fixed => rw [eq_of_decode_fixed hcell h]; exact ⟨rfl, rfl⟩
  | formula => rw [eq_of_decode_formula hcell h]; exact ⟨rfl, rfl⟩

/-- The controller types with formula cells are the two that remain (R143). -/
theorem controllerType_one_or_two (h0 : c ≠ 0) (h3 : c ≠ 3) : c = 1 ∨ c = 2 := by
  revert c
  decide

/-! ## The obligations of the decoder -/

/-- Settles O11: each cell's clause is the rule for its kind at that row of the table. -/
theorem geometryByCell : Obligations.GeometryByCell := by
  intro limit raw c b extra g refused
  have constant {c' b' : BitVec 2} {pages blocks fs : Nat} (hrow : geometryCell c' b' = .fixed pages blocks fs)
      (h : c = c' ∧ b = b') : decodeGeometry limit raw = g pages blocks fs := by
    obtain ⟨rfl, rfl⟩ := h
    exact decodeGeometry_of_fixed hrow
  refine ⟨rfl, rfl, rfl, extraOf_le raw, fun h => if_pos h, constant rfl, constant rfl, constant rfl, constant rfl,
    constant rfl, ?_, ?_, ?_, fun h => decodeGeometry_of_invalid (geometryCell_eq_invalid_iff.mpr h)⟩
  · rintro ⟨hc, hb, hn⟩
    rw [decodeGeometry_of_not_refused (hb ▸ geometryCell_blockType_two hc) hn, formulaBlocks_eq_two_pow (by omega)]
    rfl
  · rintro ⟨hc, hb, hn⟩
    rw [decodeGeometry_of_not_refused (hb ▸ geometryCell_blockType_three hc) hn, formulaBlocks_eq_two_pow (by omega)]
    rfl
  · rintro ⟨hc, hb | hb, hr⟩
    · exact decodeGeometry_of_refused (hb ▸ geometryCell_blockType_two hc) hr
    · exact decodeGeometry_of_refused (hb ▸ geometryCell_blockType_three hc) hr

/-- Settles O12: the listed values come from the geometry's form, the block counts from the word's row. -/
theorem geometryRanges : Obligations.GeometryRanges := by
  intro limit raw g h
  have hlegal := decodeGeometry_legal h
  simp only [FlashGeometry.legal, Bool.and_eq_true, beq_iff_eq, List.contains_iff_mem] at hlegal
  obtain ⟨⟨⟨hsize, hpages⟩, hfs⟩, -⟩ := hlegal
  have hvalid := valid_of_decode h
  have hextra := extraOf_le raw
  obtain ⟨hc, hb⟩ := types_of_decode h
  rw [hc, hb]
  refine ⟨hsize, hpages, hfs, fun hconst => ?_, fun ⟨hc0, hb2⟩ => ?_, fun ⟨hc0, hb3⟩ => ?_⟩
  · obtain ⟨blocks, hblocks, fs, -, hcell⟩ := geometryCell_constant hvalid hconst
    rw [eq_of_decode_fixed hcell h]
    exact hblocks
  · have hcell := geometryCell_blockType_two (controllerType_one_or_two hc0 fun h3 => hvalid (.inl h3))
    rw [← hb2] at hcell
    rw [eq_of_decode_formula hcell h]
    exact ⟨extraOf raw + 6, by omega, by omega, formulaBlocks_eq_two_pow (by omega)⟩
  · have hcell := geometryCell_blockType_three (controllerType_one_or_two hc0 fun h3 => hvalid (.inl h3))
    rw [← hb3] at hcell
    rw [eq_of_decode_formula hcell h]
    exact ⟨extraOf raw + 5, by omega, by omega, formulaBlocks_eq_two_pow (by omega)⟩

/-- Settles O13: the two words lie in one cell, and only a formula cell reads `extra`, for its block count alone. -/
theorem geometryIgnoresOtherBits : Obligations.GeometryIgnoresOtherBits := by
  intro limit raw raw' _ _ hb hc formula
  change blockTypeOf raw = blockTypeOf raw' at hb
  change controllerTypeOf raw = controllerTypeOf raw' at hc
  have hsame : geometryCell (controllerTypeOf raw') (blockTypeOf raw') =
      geometryCell (controllerTypeOf raw) (blockTypeOf raw) := by rw [hc, hb]
  refine ⟨fun hextra => ?_, fun hformula g g' h h' => ?_⟩
  · cases hcell : geometryCell (controllerTypeOf raw) (blockTypeOf raw) with
    | invalid => rw [decodeGeometry_of_invalid hcell, decodeGeometry_of_invalid (hsame.trans hcell)]
    | fixed =>
      rw [decodeGeometry_of_fixed hcell, decodeGeometry_of_fixed (hsame.trans hcell), hc, hb]
      rfl
    | formula =>
      obtain ⟨hlow, hhigh⟩ := hextra (geometryCell_eq_formula_iff.mp ⟨_, _, _, hcell⟩)
      have hsum : extraOf raw = extraOf raw' := by rw [extraOf, extraOf, hlow, hhigh]
      rw [decodeGeometry_of_formula hcell, decodeGeometry_of_formula (hsame.trans hcell), hc, hb, hsum]
      split <;> rfl
  · obtain ⟨pages, shift, fs, hcell⟩ := geometryCell_eq_formula_iff.mpr hformula
    change geometryCell (controllerTypeOf raw) (blockTypeOf raw) = _ at hcell
    rw [eq_of_decode_formula hcell h, eq_of_decode_formula (hsame.trans hcell) h']

end Sys2Proof.Machine
end

section
/-! PROOFS. INIT with a transport that completes: the handshake, the two configuration reads and their decoding. -/

namespace Sys2Proof.Machine

/-! ## A request that raises an error -/

/-- An admitted instruction whose body raises an error ends with the error's code (R203). -/
theorem exec_of_body_raised (i : Instr) {s t : State} {e : Error} (hh : s.halted = false) (hready : ready i s = true)
    (hbody : bodyOf i (s.begin i) = .ended (.raised e) t) : exec i s = .next (t.raise e) := by
  cases h : i.port <;> simp [exec_eq, hh, hready, hbody, h, concludeOn, conclude, concludeFrame]

/-- Any error but a transport failure ends a request as its code does (R203, R207). -/
theorem State.raise_eq_finish {s : State} {e : Error} (hh : s.halted = false) (he : e ≠ .transportFailure) :
    s.raise e = s.finish e.code := by
  simp [State.raise, State.finish, hh, he]

/-! ## INIT -/

theorem State.showCachedRaw_of_geometry {s : State} {g : FlashGeometry} (h : s.geometry = some g) :
    s.showCachedRaw = { s with value := some g.raw } := by
  simp [State.showCachedRaw, h]

/-- Settles O26: INIT's body on an existing session sends nothing. -/
theorem initWhenInitialized : Obligations.InitWhenInitialized := by
  intro s g hh hinit hgeometry
  have hbody : initBody (s.begin .init) = .ok () { s.begin .init with value := some g.raw } := by
    rw [initBody, if_pos (by exact hinit), State.showCachedRaw_of_geometry (by exact hgeometry)]
  rw [exec_of_body_ok .init hh rfl hbody]
  rfl

/-- The block after INIT's handshake completed (R161). -/
def State.handshaken (s : State) : State :=
  { s.opened.afterEvents (enterEvents s.params) with device := s.device.entered }

/-- The block after INIT's handshake and its two configuration reads completed (R161). -/
def State.configRead (s : State) : State :=
  let tx := readFrame s.params.turnaround s.params.regConfig
  (s.handshaken.afterPulse tx).afterPulse tx

/-- The value of the second configuration read of INIT (R161). -/
def State.secondRead (s : State) : Word :=
  let tx := readFrame s.params.turnaround s.params.regConfig
  let r1 := s.device.entered.respond s.params tx s.draws
  replyValue (r1.device.respond s.params tx r1.draws).bytes

theorem State.opened_kept (s : State) : s.opened.params = s.params ∧ s.opened.device = s.device ∧
    s.opened.draws = s.draws ∧ s.opened.halted = s.halted := by
  unfold State.opened
  split <;> exact ⟨rfl, rfl, rfl, rfl⟩

/-- INIT without a session decodes its second configuration read; the first is discarded (R161). -/
theorem initBody_completes {s : State} (hinit : s.initialized = false) (hc : s.TransportCompletes) :
    initBody s = adoptGeometry s.secondRead s.configRead := by
  obtain ⟨hparams, hdevice, hdraws, -⟩ := s.opened_kept
  have henter : enterBody s.opened = .ok () s.handshaken := by
    rw [enterBody_completes (State.opened_completes hc), hparams, hdevice]
    rfl
  have hc1 : s.handshaken.TransportCompletes := completes_drop (State.opened_completes hc) _
  rw [initBody, if_neg (by simp [hinit]), openBody_completes hc, Run.bind_ok, henter, Run.bind_ok,
    regRead_completes _ hc1, Run.bind_ok, regRead_completes _ (State.afterPulse_completes hc1 _), Run.bind_ok]
  simp [State.secondRead, State.configRead, State.handshaken, State.afterPulse, State.afterEvents, hparams, hdraws]

theorem State.configRead_kept (s : State) : s.configRead.params = s.params ∧ s.configRead.halted = s.halted := by
  obtain ⟨hparams, -, -, hhalted⟩ := s.opened_kept
  exact ⟨hparams, hhalted⟩

/-- What INIT leaves once it has ended and shown the second read (R161, R162). -/
theorem initDone_eq (s : State) (code : Byte) :
    { (s.begin .init).configRead.finish code with value := some s.secondRead } = s.initDone code := by
  cases h : s.linkOpen <;>
    simp [h, State.opened, State.configRead, State.handshaken, State.initDone, State.completed, State.afterPulse,
      State.afterEvents, State.secondRead, State.finish, State.begin, openEvents, enterEvents, pulseEvents, drivePins,
      Pins.set, Pins.get, Instr.regOperand, Instr.argOperand]

theorem adoptGeometry_some {s : State} {v : Word} {g : FlashGeometry}
    (h : decodeGeometry s.params.geomShiftLimit v = some g) :
    adoptGeometry v s = .ok () { s with value := some v, geometry := some g, initialized := true } := by
  simp [adoptGeometry, h]

theorem adoptGeometry_none {s : State} {v : Word} (h : decodeGeometry s.params.geomShiftLimit v = none) :
    adoptGeometry v s = .ended (.raised .invalidGeometry) { s.endSession with value := some v } := by
  simp [adoptGeometry, h]

/-- Settles O27. -/
theorem initCompletes : Obligations.InitCompletes := by
  intro s g hh hinit hc tx r1 r2 hdecode
  obtain ⟨hparams, -⟩ := (s.begin .init).configRead_kept
  have hbody := initBody_completes (s := s.begin .init) hinit hc
  rw [adoptGeometry_some (by rw [hparams]; exact hdecode)] at hbody
  rw [exec_of_body_ok .init hh rfl hbody, ← initDone_eq]
  rfl

/-- Settles O28. -/
theorem initInvalidGeometry : Obligations.InitInvalidGeometry := by
  intro s hh hinit hc tx r1 r2 hdecode
  obtain ⟨hparams, hhalted⟩ := (s.begin .init).configRead_kept
  have hbody := initBody_completes (s := s.begin .init) hinit hc
  rw [adoptGeometry_none (by rw [hparams]; exact hdecode)] at hbody
  rw [exec_of_body_raised .init hh rfl hbody, State.raise_eq_finish ?_ (e := .invalidGeometry) nofun, ← initDone_eq]
  · rfl
  · exact hhalted.trans hh

end Sys2Proof.Machine
end

section
/-! PROOFS. Wait-ready, and the parts of a sector request, each ended by a wait-ready: how they end, and the rules to walk
through a body that sends them with a transport that completes. -/

namespace Sys2Proof.Machine

/-- Settles O30. -/
theorem waitReadyPolls : Obligations.WaitReadyPolls := by
  intro stage s hc hm
  obtain ⟨polls, ⟨⟨busy, last, rfl, hlen, hbusy, hlast⟩, d, k, l, e, -⟩ | ⟨⟨hlen, hbusy⟩, d, k, l, e, -⟩⟩ :=
    waitReady_ends stage hm hc
  · refine .inl ⟨busy, last, _, e, by simpa using hlen, hbusy, hlast, rfl, ?_⟩
    rw [pollEvents_length _ _ (by simp), List.length_append, List.length_singleton]
  · refine .inr ⟨polls, _, e, hlen, hbusy, rfl, ?_⟩
    rw [pollEvents_length _ _ (by rintro rfl; simp at hlen; omega), hlen]

/-! ## The parts of a sector request, each ended by a wait-ready -/

/-- The bus events of parts, the polls of each ready, or of parts up to one whose wait timed out at its stage. -/
inductive PartsEnd (p : Params) : List StagePart → List BusEvent → Option Stage → Prop where
  | nil : PartsEnd p [] [] none
  | ready {stage : Stage} {ts : List Transaction} {parts : List StagePart} {polls : List (List Byte)}
      {es : List BusEvent} {o : Option Stage} (hpolls : readyPolls p polls) (hrest : PartsEnd p parts es o) :
      PartsEnd p ((stage, ts) :: parts) (transactionEvents p ts ++ pollEvents p polls ++ es) o
  | busy {stage : Stage} {ts : List Transaction} {polls : List (List Byte)} (hpolls : busyPolls p polls)
      (parts : List StagePart) :
      PartsEnd p ((stage, ts) :: parts) (transactionEvents p ts ++ pollEvents p polls) (some stage)

/-- Transactions before those of the first part. -/
def prependTransactions (us : List Transaction) : List StagePart → List StagePart
  | [] => []
  | (stage, ts) :: parts => (stage, us ++ ts) :: parts

variable {p : Params} {m : Memory} {s : State}

theorem PartsEnd.prepend {parts : List StagePart} {es : List BusEvent} {o : Option Stage} (us : List Transaction)
    (h : PartsEnd p parts es o) (hne : parts ≠ []) :
    PartsEnd p (prependTransactions us parts) (transactionEvents p us ++ es) o := by
  cases h with
  | nil => exact absurd rfl hne
  | ready hpolls hrest =>
    rw [← List.append_assoc, ← List.append_assoc, ← transactionEvents_append]
    exact .ready hpolls hrest
  | busy hpolls parts =>
    rw [← List.append_assoc, ← transactionEvents_append]
    exact .busy hpolls parts

/-- The polls of the other stages stay when those of one are set. -/
theorem stageEvents_update (stage : Stage) (q : List (List Byte)) (polls : Stage → List (List Byte))
    {parts : List StagePart} (h : ∀ x ∈ parts, x.1 ≠ stage) :
    stageEvents p (Function.update polls stage q) parts = stageEvents p polls parts :=
  List.flatMap_congr fun x hx => by rw [Function.update_of_ne (h x hx)]

/-- Parts with distinct stages, with the polls of each as a function of its stage. -/
theorem PartsEnd.polls {parts : List StagePart} {es : List BusEvent} {o : Option Stage} (h : PartsEnd p parts es o)
    (hstages : (parts.map Prod.fst).Nodup) : ∃ polls : Stage → List (List Byte),
      (o = none → (∀ x ∈ parts, readyPolls p (polls x.1)) ∧ es = stageEvents p polls parts) ∧
      ∀ stage, o = some stage → ∃ before part rest, parts = before ++ (stage, part) :: rest ∧
        (∀ x ∈ before, readyPolls p (polls x.1)) ∧ busyPolls p (polls stage) ∧
        es = stageEvents p polls (before ++ [(stage, part)]) := by
  induction h with
  | nil => exact ⟨fun _ => [], by simp [stageEvents], nofun⟩
  | @busy stage ts q hq parts =>
    refine ⟨fun _ => q, nofun, ?_⟩
    rintro _ ⟨⟩
    exact ⟨[], ts, parts, rfl, by simp, hq, by simp [stageEvents]⟩
  | @ready stage ts parts q es o hq hrest ih =>
    rw [List.map_cons, List.nodup_cons] at hstages
    obtain ⟨hnew, hdistinct⟩ := hstages
    have hne : ∀ x ∈ parts, x.1 ≠ stage := fun x hx hstage => hnew (List.mem_map.mpr ⟨x, hx, hstage⟩)
    obtain ⟨polls, hnone, hsome⟩ := ih hdistinct
    have hcons : ∀ xs : List StagePart, (∀ x ∈ xs, x.1 ≠ stage) →
        stageEvents p (Function.update polls stage q) ((stage, ts) :: xs) =
          transactionEvents p ts ++ pollEvents p q ++ stageEvents p polls xs := by
      intro xs hxs
      rw [← stageEvents_update stage q polls hxs]
      simp [stageEvents]
    have hall : ∀ xs : List StagePart, (∀ x ∈ xs, x.1 ≠ stage) → (∀ x ∈ xs, readyPolls p (polls x.1)) →
        ∀ x ∈ (stage, ts) :: xs, readyPolls p (Function.update polls stage q x.1) := by
      rintro xs hxs h x (_ | ⟨_, hx⟩)
      · simpa using hq
      · rw [Function.update_of_ne (hxs x hx)]
        exact h x hx
    refine ⟨Function.update polls stage q, fun ho => ?_, fun stage' ho => ?_⟩
    · obtain ⟨hready, rfl⟩ := hnone ho
      exact ⟨hall parts hne hready, (hcons parts hne).symm⟩
    · obtain ⟨before, part, rest, rfl, hready, hq', rfl⟩ := hsome stage' ho
      have hne' : ∀ x ∈ before, x.1 ≠ stage := fun x hx => hne x (by simp [hx])
      have hstage : stage' ≠ stage := hne (stage', part) (by simp)
      refine ⟨(stage, ts) :: before, part, rest, rfl, hall before hne' hready, ?_, (hcons _ ?_).symm⟩
      · rwa [Function.update_of_ne hstage]
      · simpa [or_imp, forall_and, hstage] using hne'

/-- A wait times out at the stage of a part. -/
theorem PartsEnd.stage_mem {parts : List StagePart} {es : List BusEvent} {o : Option Stage}
    (h : PartsEnd p parts es o) {stage : Stage} (ho : o = some stage) : stage ∈ parts.map Prod.fst := by
  induction h with
  | nil => cases ho
  | busy =>
    cases ho
    exact List.mem_cons_self
  | ready _ _ ih => exact List.mem_cons_of_mem _ (ih ho)

theorem readyPolls.ne_nil {polls : List (List Byte)} (h : readyPolls p polls) : polls ≠ [] := by
  obtain ⟨busy, last, rfl, -⟩ := h
  simp

/-- Each transaction of a part is four events, its polls are too, and a delay stands between two polls (R111, R164). -/
theorem stageEvents_length (polls : Stage → List (List Byte)) {parts : List StagePart}
    (h : ∀ x ∈ parts, polls x.1 ≠ []) : (stageEvents p polls parts).length + parts.length =
      (parts.map fun x => 4 * x.2.length + 5 * (polls x.1).length).sum := by
  induction parts with
  | nil => rfl
  | cons x parts ih =>
    have hpolls := pollEvents_length p (polls x.1) (h x List.mem_cons_self)
    have hrest := ih fun y hy => h y (List.mem_cons_of_mem _ hy)
    rw [stageEvents] at hrest ⊢
    simp only [List.flatMap_cons, List.length_append, List.length_cons, List.map_cons, List.sum_cons,
      transactionEvents_length]
    omega

/-- One part: its transactions and polls, ready or busy. -/
theorem PartsEnd.single {stage : Stage} {ts : List Transaction} {es : List BusEvent} {o : Option Stage}
    (h : PartsEnd p [(stage, ts)] es o) (hm : 1 ≤ p.pollMax) : ∃ polls,
      es = transactionEvents p ts ++ pollEvents p polls ∧ es.length + 1 = 4 * ts.length + 5 * polls.length ∧
      ((o = none ∧ readyPolls p polls) ∨ (o = some stage ∧ busyPolls p polls)) := by
  have hlen : ∀ polls, polls ≠ [] →
      (transactionEvents p ts ++ pollEvents p polls).length + 1 = 4 * ts.length + 5 * polls.length := by
    intro polls hne
    rw [List.length_append, transactionEvents_length, ← pollEvents_length p polls hne, Nat.add_assoc]
  cases h with
  | @busy _ _ polls hpolls =>
    refine ⟨polls, rfl, hlen polls ?_, .inr ⟨rfl, hpolls⟩⟩
    rintro rfl
    simp [busyPolls] at hpolls
    omega
  | @ready _ _ _ polls _ _ hpolls hnil =>
    cases hnil
    rw [List.append_nil]
    refine ⟨polls, rfl, hlen polls ?_, .inl ⟨rfl, hpolls⟩⟩
    rintro rfl
    simp [readyPolls] at hpolls

/-! ## Walking through a sector request's body -/

/-- A part of a request went on, or timed out at a stage. -/
def runOf : Option Stage → State → Run Unit
  | none, s => .ok () s
  | some stage, s => .ended (.raised (.timeout stage)) s

/-- The part `r` of a request, run from `s`, sends parts of which `K` holds and ends as they do. -/
def SendsParts (p : Params) (K : List StagePart → Prop) (s : State) (r : Run Unit) : Prop :=
  ∃ parts es o d k l, K parts ∧ parts ≠ [] ∧ PartsEnd p parts es o ∧ r = runOf o (s.sent es d k l) ∧
    l.reg = s.latches.reg ∧ l.arg = s.latches.arg

/-- Where a sector request stands: the parameters, the contents of SB, a transport that completes. -/
structure Serving (p : Params) (m : Memory) (s : State) : Prop where
  params : s.params = p
  sb : s.sb = m
  completes : s.TransportCompletes

/-- After a transaction CS_N is high as well (R111). -/
structure Between (p : Params) (m : Memory) (s : State) : Prop extends Serving p m s where
  high : s.pins.csHigh = s.pins

variable {K : List StagePart → Prop}

theorem SendsParts.mono {K' : List StagePart → Prop} {r : Run Unit} (h : SendsParts p K s r)
    (hK : ∀ parts, K parts → K' parts) : SendsParts p K' s r := by
  obtain ⟨parts, es, o, d, k, l, h, hrest⟩ := h
  exact ⟨parts, es, o, d, k, l, hK parts h, hrest⟩

section
variable (h : Serving p m s)
include h

theorem Serving.sent (es : List BusEvent) (d : Device) (k : Nat) (l : Latches) : Between p m (s.sent es d k l) :=
  ⟨⟨h.params, h.sb, completes_drop h.completes _⟩, rfl⟩

/-- Transactions with some replies `x`, then the rest. -/
theorem SendsParts.send {ι : Type} {T : ι → List Transaction} {r : Run Unit} {f : Unit → State → Run Unit}
    (hr : ∃ x, Sends anyAnswers 0 s (transactionEvents p (T x)) () r)
    (hf : ∀ x t, Between p m t → SendsParts p (fun parts => K (prependTransactions (T x) parts)) t (f () t)) :
    SendsParts p K s (r.bind f) := by
  obtain ⟨x, d, k, l, rfl, -, hreg, harg⟩ := hr
  obtain ⟨parts, es, o, d', k', l', hK, hne, hend, e, hreg', harg'⟩ := hf x _ (h.sent _ d k l)
  refine ⟨_, _, o, d', k', l', hK, ?_, hend.prepend _ hne, ?_, hreg'.trans hreg, harg'.trans harg⟩
  · cases parts with
    | nil => exact absurd rfl hne
    | cons => exact List.cons_ne_nil _ _
  · rw [Run.bind_ok, e, State.sent_sent]

/-- One part, then the rest if the device was ready. -/
theorem SendsParts.bind {ι : Type} {stage : Stage} {T : ι → List Transaction} {r : Run Unit}
    {f : Unit → State → Run Unit} (hr : SendsParts p (fun parts => ∃ x, parts = [(stage, T x)]) s r)
    (hf : ∀ x t, Between p m t → SendsParts p (fun parts => K ((stage, T x) :: parts)) t (f () t)) :
    SendsParts p K s (r.bind f) := by
  obtain ⟨_, es, o, d, k, l, ⟨x, rfl⟩, -, hend, rfl, hreg, harg⟩ := hr
  obtain ⟨parts, es', o', d', k', l', hK, -, hend', e', hreg', harg'⟩ := hf x _ (h.sent es d k l)
  cases hend with
  | busy hpolls => exact ⟨_, _, some stage, d, k, l, hK, List.cons_ne_nil _ _, .busy hpolls parts, rfl, hreg, harg⟩
  | ready hpolls hnil =>
    cases hnil
    refine ⟨_, _, o', d', k', l', hK, List.cons_ne_nil _ _, .ready hpolls hend', ?_, hreg'.trans hreg,
      harg'.trans harg⟩
    rw [runOf, Run.bind_ok, e', State.sent_sent, List.append_nil]

theorem clearStatus_sends_pair : ∃ rx : List Byte × List Byte, Sends anyAnswers 0 s
    (transactionEvents p [.read p.regStatus rx.1, .write p.regStatus (replyValue rx.1) rx.2]) () (clearStatus s) := by
  rw [← h.params]
  obtain ⟨r0, r1, hsends⟩ := clearStatus_sends descends_anyAnswers h.completes trivial
  exact ⟨(r0, r1), hsends⟩

end

section
variable (h : Between p m s)
include h

theorem Between.latches (l : Latches) : Between p m { s with latches := l } :=
  ⟨⟨h.params, h.sb, h.completes⟩, h.high⟩

/-- A wait-ready at the end of the request (R164). With P_POLL_MAX 0 it times out at once (log 22). -/
theorem SendsParts.waitLast (stage : Stage) (hK : K [(stage, [])]) : SendsParts p K s (waitReady stage s) := by
  obtain ⟨⟨rfl, -, hc⟩, hhigh⟩ := h
  by_cases hm : 1 ≤ s.params.pollMax
  · obtain ⟨polls, ⟨hpolls, d, k, l, e, -, hlatches⟩ | ⟨hpolls, d, k, l, e, hlatches⟩⟩ := waitReady_ends stage hm hc
    · refine ⟨_, _, none, d, k, l, hK, List.cons_ne_nil _ _, .ready hpolls .nil, ?_, hlatches⟩
      rw [List.append_nil]
      exact e
    · exact ⟨_, _, some stage, d, k, l, hK, List.cons_ne_nil _ _, .busy hpolls [], e, hlatches⟩
  · have hzero : s.params.pollMax = 0 := by omega
    refine ⟨_, _, some stage, s.device, s.draws, s.latches, hK, List.cons_ne_nil _ _,
      .busy (polls := []) ⟨hzero.symm, by simp⟩ [], ?_, rfl, rfl⟩
    simp [waitReady, hzero, pollLoop, runOf, State.sent, hhigh, transactionEvents, pollEvents]

/-- A wait-ready, then the rest if the device was ready (R164). -/
theorem SendsParts.wait (stage : Stage) {f : Unit → State → Run Unit}
    (hf : ∀ t, Between p m t → SendsParts p (fun parts => K ((stage, []) :: parts)) t (f () t)) :
    SendsParts p K s ((waitReady stage s).bind f) :=
  .bind (T := fun _ : Unit => []) h.toServing (.waitLast h stage ⟨(), rfl⟩) fun _ t ht => hf t ht

theorem getRegister_sends (a : Params → RegAddr) :
    ∃ rx, Sends anyAnswers 0 s (transactionEvents p [.read (a p) rx]) (replyValue rx) (regRead (a s.params) s) := by
  rw [← h.params]
  exact regRead_sends descends_anyAnswers _ h.completes trivial

theorem setRegister_sends (a : Params → RegAddr) (v : Word) :
    ∃ rx, Sends anyAnswers 0 s (transactionEvents p [.write (a p) v rx]) () (regWrite (a s.params) v s) := by
  rw [← h.params]
  exact regWrite_sends descends_anyAnswers _ _ h.completes trivial

theorem command_sends (v : Params → Word) :
    ∃ rx, Sends anyAnswers 0 s (transactionEvents p [.write p.regCommand (v p) rx]) () (command (v s.params) s) := by
  rw [h.params]
  exact setRegister_sends h Params.regCommand (v p)

theorem enableWrite_sends_pair : ∃ rx : List Byte × List Byte, Sends anyAnswers 0 s
    (transactionEvents p [.read p.regConfig rx.1, .write p.regConfig (replyValue rx.1 ||| p.weMask) rx.2]) ()
    (enableWrite s) := by
  rw [← h.params]
  obtain ⟨r0, r1, hsends⟩ := enableWrite_sends descends_anyAnswers h.completes trivial
  exact ⟨(r0, r1), hsends⟩

end

end Sys2Proof.Machine
end

section
/-! PROOFS. What the bodies of ERASE, RDSEC and WRSEC send with a transport that completes, and the words that RDSEC
stores in SB. -/

namespace Sys2Proof.Machine

variable {p : Params} {m : Memory} {s : State} {K : List StagePart → Prop}

/-! ## ERASE -/

/-- ERASE's body is one part (R172). -/
theorem eraseBody_sends (h : Serving p m s) (lba : Word) :
    SendsParts p (fun parts => ∃ r, parts = [(.erase, eraseTransactions p lba r)]) s (eraseBody lba s) := by
  refine .send h (clearStatus_sends_pair h) fun a _ h => ?_
  refine .send h.toServing (enableWrite_sends_pair h) fun b _ h => ?_
  refine .send h.toServing (setRegister_sends h Params.regAddress (sectorAddress lba)) fun c _ h => ?_
  refine .send h.toServing (command_sends h Params.cmdEUnlock) fun d _ h => ?_
  refine .send h.toServing (command_sends h Params.cmdEConfirm) fun e _ h => ?_
  refine .send h.toServing (command_sends h Params.cmdEExec) fun f _ h => ?_
  exact .waitLast h .erase ⟨fun i => [a.1, a.2, b.1, b.2, c, d, e, f].getD i [], rfl⟩

/-! ## The word loops -/

/-- The transactions of a word loop from word `i` on, with `n` words to go: for each word `T`, with its two replies. -/
def loopTransactions (T : Nat → List Byte → List Byte → List Transaction) (i n : Nat) (w : Nat → List Byte) :
    List Transaction :=
  (List.range' i n).flatMap fun j => T j (w (2 * j)) (w (2 * j + 1))

/-- The replies `w`, but `a` and `b` for word `i`. -/
def withReplies (i : Nat) (a b : List Byte) (w : Nat → List Byte) : Nat → List Byte :=
  Function.update (Function.update w (2 * i) a) (2 * i + 1) b

theorem withReplies_of_ne {i j : Nat} (hj : j ≠ i) (a b : List Byte) (w : Nat → List Byte) :
    withReplies i a b w (2 * j) = w (2 * j) ∧ withReplies i a b w (2 * j + 1) = w (2 * j + 1) := by
  constructor <;> rw [withReplies, Function.update_of_ne (by omega), Function.update_of_ne (by omega)]

theorem withReplies_self (i : Nat) (a b : List Byte) (w : Nat → List Byte) :
    withReplies i a b w (2 * i) = a ∧ withReplies i a b w (2 * i + 1) = b := by
  simp [withReplies]

theorem loopTransactions_succ (T : Nat → List Byte → List Byte → List Transaction) (i n : Nat) (a b : List Byte)
    (w : Nat → List Byte) :
    loopTransactions T i (n + 1) (withReplies i a b w) = T i a b ++ loopTransactions T (i + 1) n w := by
  obtain ⟨ha, hb⟩ := withReplies_self i a b w
  rw [loopTransactions, List.range'_succ, List.flatMap_cons, ha, hb]
  congr 1
  refine List.flatMap_congr fun j hj => ?_
  obtain ⟨h0, h1⟩ := withReplies_of_ne (i := i) (j := j) (by simp at hj; omega) a b w
  rw [h0, h1]

/-- A word of WRSEC's loop: a data write and a write-command pulse (R176). -/
def writeWord (p : Params) (m : Memory) (i : Nat) (a b : List Byte) : List Transaction :=
  [.write p.regData (sbWord m i) a, .write p.regCommand p.cmdWPulse b]

/-- WRSEC's word loop, then the rest (R176). -/
theorem SendsParts.writeWords (h : Between p m s) (n i : Nat) {f : Unit → State → Run Unit}
    (hf : ∀ w t, Between p m t → SendsParts p (fun parts =>
      K (prependTransactions (loopTransactions (writeWord p m) i n w) parts)) t (f () t)) :
    SendsParts p K s ((writeWords n i s).bind f) := by
  induction n generalizing i s K with
  | zero =>
    refine (hf (fun _ => []) s h).mono fun parts hK => ?_
    cases parts <;> exact hK
  | succ n ih =>
    have hdata : ∃ rx, Sends anyAnswers 0 s (transactionEvents p [.write p.regData (sbWord m i) rx]) ()
        (regWrite s.params.regData (sbWord s.sb i) { s with latches := { s.latches with word := some i } }) := by
      rw [show sbWord s.sb i = sbWord m i by rw [h.sb]]
      exact setRegister_sends (h.latches { s.latches with word := some i }) Params.regData (sbWord m i)
    rw [Machine.writeWords, Run.bind_assoc]
    refine .send h.toServing hdata fun a t ht => ?_
    rw [Run.bind_assoc]
    refine .send ht.toServing (command_sends ht Params.cmdWPulse) fun b u hu => ?_
    refine ih hu (i + 1) fun w v hv => (hf (withReplies i a b w) v hv).mono fun parts hK => ?_
    rw [loopTransactions_succ] at hK
    cases parts <;> exact hK

/-- A word of RDSEC's loop: a null command and a data read (R169). -/
def readWord (p : Params) (_ : Nat) (a b : List Byte) : List Transaction :=
  [.write p.regCommand p.cmdNull a, .read p.regData b]

/-- The words from `i` on that RDSEC's loop put into SB: the rest is as before (R49, R169). -/
structure StoredWords (i n : Nat) (w : Nat → List Byte) (m m' : Memory) : Prop where
  form : sbWf m' = true
  before : ∀ x < 4 * i, m'.read x = m.read x
  words : ∀ j k, i ≤ j → j < i + n → k < 4 → m'.read (4 * j + k) = (leBytes (replyValue (w (2 * j + 1))))[k]?

/-- One word, then the others. -/
theorem StoredWords.succ {i n : Nat} {w : Nat → List Byte} {m' : Memory} (hm : sbWf m = true) (a b : List Byte)
    (hrest : StoredWords (i + 1) n w (sbPutWord m i (replyValue b)) m') :
    StoredWords i (n + 1) (withReplies i a b w) m m' := by
  have hwf : Memory.wf m = true := by simp [sbWf] at hm; exact hm.1
  refine ⟨hrest.form, fun x hx => ?_, fun j k hij hj hk => ?_⟩
  · rw [hrest.before x (by omega), read_sbPutWord hwf, if_neg (by omega)]
  · by_cases hji : j = i
    · subst hji
      rw [hrest.before _ (by omega), read_sbPutWord hwf, if_pos (by omega), Nat.add_sub_cancel_left,
        (withReplies_self j a b w).2]
    · rw [hrest.words j k (by omega) (by omega) hk, (withReplies_of_ne hji a b w).2]

/-- RDSEC's word loop (R169). -/
theorem readWords_stores (h : Between p m s) (n i : Nat) :
    ∃ w m' d k l, readWords n i s =
        .ok () { s.sent (transactionEvents p (loopTransactions (readWord p) i n w)) d k l with sb := m' } ∧
      l.reg = s.latches.reg ∧ l.arg = s.latches.arg ∧
      (sbWf m = true → i + n ≤ sectorWords → StoredWords i n w m m') := by
  induction n generalizing i s m with
  | zero =>
    refine ⟨fun _ => [], m, s.device, s.draws, s.latches, ?_, rfl, rfl, fun hm _ => ⟨hm, fun _ _ => rfl, ?_⟩⟩
    · simp [readWords, loopTransactions, transactionEvents, State.sent, h.high, ← h.sb]
    · intro j k h1 h2
      omega
  | succ n ih =>
    obtain ⟨a, d, k, l, e, -, hreg, harg⟩ := command_sends (h.latches { s.latches with word := some i }) Params.cmdNull
    set u := s.sent (transactionEvents p [.write p.regCommand p.cmdNull a]) d k l
    have hu : Between p m u := h.sent _ d k l
    obtain ⟨b, d', k', l', e', -, hreg', harg'⟩ := getRegister_sends hu Params.regData
    set v := u.sent (transactionEvents p [.read p.regData b]) d' k' l'
    have hv : Between p (sbPutWord m i (replyValue b)) { v with sb := sbPutWord v.sb i (replyValue b) } :=
      ⟨⟨h.params, congrArg (sbPutWord · i _) h.sb, (hu.sent _ d' k' l').completes⟩, rfl⟩
    obtain ⟨w, m', d'', k'', l'', e'', hreg'', harg'', hstored⟩ := ih hv (i + 1)
    refine ⟨withReplies i a b w, m', d'', k'', l'', ?_, (hreg''.trans hreg').trans hreg,
      (harg''.trans harg').trans harg,
      fun hm hi => .succ hm a b (hstored (sbWf_putWord hm (by omega) _) (by omega))⟩
    rw [readWords, e]
    show ((regRead u.params.regData u).bind _) = _
    rw [e', Run.bind_ok, e'', loopTransactions_succ]
    simp [u, v, readWord, State.sent, Pins.csHigh, transactionEvents, Nat.add_assoc]

/-! ## RDSEC -/

/-- RDSEC's body up to its wait-ready (R169). -/
def readCommand (lba : Word) (s : State) : Run Unit :=
  (clearStatus s).bind fun _ s =>
  (setAddress lba s).bind fun _ s =>
  (command s.params.cmdRead s).bind fun _ s =>
  waitReady .read s

theorem rdsecBody_eq (lba : Word) (s : State) : rdsecBody lba s =
    (readCommand lba s).bind fun _ s => (resetPointer s).bind fun _ s => readWords sectorWords 0 s := by
  simp [rdsecBody, readCommand, Run.bind_assoc]

theorem readCommand_sends (h : Serving p m s) (lba : Word) :
    SendsParts p (fun parts => ∃ r, parts = [(.read, readCommandTransactions p lba r)]) s (readCommand lba s) := by
  refine .send h (clearStatus_sends_pair h) fun a _ h => ?_
  refine .send h.toServing (setRegister_sends h Params.regAddress (sectorAddress lba)) fun b _ h => ?_
  refine .send h.toServing (command_sends h Params.cmdRead) fun c _ h => ?_
  exact .waitLast h .read ⟨fun i => [a.1, a.2, b, c].getD i [], rfl⟩

/-- The pointer reset and the word loop of RDSEC go on (R169). -/
theorem readSector_stores (h : Between p m s) : ∃ a w m' d k l,
    (resetPointer s).bind (fun _ s => readWords sectorWords 0 s) =
        .ok () { s.sent (transactionEvents p (.write p.regAddress 0 a :: readWordTransactions p w)) d k l with
          sb := m' } ∧
      l.reg = s.latches.reg ∧ l.arg = s.latches.arg ∧ (sbWf m = true → StoredWords 0 132 w m m') := by
  obtain ⟨a, d, k, l, e, -, hreg, harg⟩ := setRegister_sends h Params.regAddress 0
  obtain ⟨w, m', d', k', l', e', hreg', harg', hstored⟩ := readWords_stores (h.sent _ d k l) sectorWords 0
  refine ⟨a, w, m', d', k', l', ?_, hreg'.trans hreg, harg'.trans harg, fun hm => hstored hm (by simp)⟩
  rw [show resetPointer s = _ from e, Run.bind_ok, e', State.sent_sent, ← transactionEvents_append]
  simp [loopTransactions, readWord, readWordTransactions, sectorWords, List.range_eq_range']

/-! ## WRSEC -/

/-- WRSEC's body, the erase apart (R176). -/
def writeSector (lba : Word) (s : State) : Run Unit :=
  (clearStatus s).bind fun _ s =>
  (resetPointer s).bind fun _ s =>
  (writeWords sectorWords 0 s).bind fun _ s =>
  (waitReady .writeData s).bind fun _ s =>
  (setAddress lba s).bind fun _ s =>
  (waitReady .writeAddress s).bind fun _ s =>
  (command s.params.cmdWUnlock s).bind fun _ s =>
  (command s.params.cmdWConfirm s).bind fun _ s =>
  (command s.params.cmdWExec s).bind fun _ s =>
  waitReady .writeExecute s

/-- The replies of WRSEC's first part: those of status clear and pointer reset, then those of the word loop. -/
def dataReplies (a b c : List Byte) (w : Nat → List Byte) : Nat → List Byte
  | 0 => a
  | 1 => b
  | 2 => c
  | i + 3 => w i

theorem writeWordTransactions_eq (p : Params) (m : Memory) (a b c : List Byte) (w : Nat → List Byte) :
    writeWordTransactions p m (dataReplies a b c w) =
      .read p.regStatus a :: .write p.regStatus (replyValue a) b :: .write p.regAddress 0 c ::
        loopTransactions (writeWord p m) 0 sectorWords w := by
  have hloop : ∀ i, dataReplies a b c w (3 + 2 * i) = w (2 * i) ∧ dataReplies a b c w (4 + 2 * i) = w (2 * i + 1) :=
    fun i => by
      rw [show 3 + 2 * i = 2 * i + 3 by omega, show 4 + 2 * i = 2 * i + 1 + 3 by omega]
      exact ⟨rfl, rfl⟩
  have hhead : dataReplies a b c w 0 = a ∧ dataReplies a b c w 1 = b ∧ dataReplies a b c w 2 = c := ⟨rfl, rfl, rfl⟩
  simp [writeWordTransactions, loopTransactions, writeWord, hloop, hhead, sectorWords, List.range_eq_range']

theorem writeSector_sends (h : Serving p m s) (lba : Word) :
    SendsParts p (fun parts => ∃ r w, parts = wrsecParts p lba m false (fun _ => []) r w) s (writeSector lba s) := by
  refine .send h (clearStatus_sends_pair h) fun a _ h => ?_
  refine .send h.toServing (setRegister_sends h Params.regAddress 0) fun b _ h => ?_
  refine .writeWords h sectorWords 0 fun w _ h => ?_
  refine .wait h .writeData fun _ h => ?_
  refine .send h.toServing (setRegister_sends h Params.regAddress (sectorAddress lba)) fun c _ h => ?_
  refine .wait h .writeAddress fun _ h => ?_
  refine .send h.toServing (command_sends h Params.cmdWUnlock) fun d _ h => ?_
  refine .send h.toServing (command_sends h Params.cmdWConfirm) fun e _ h => ?_
  refine .send h.toServing (command_sends h Params.cmdWExec) fun f _ h => ?_
  refine .waitLast h .writeExecute ⟨dataReplies a.1 a.2 b w, fun i => [c, d, e, f].getD i [], ?_⟩
  simp [wrsecParts, writeWordTransactions_eq, prependTransactions, writeTripletTransactions]

theorem wrsecBody_sends (h : Serving p m s) (lba : Word) : SendsParts p
    (fun parts => ∃ e r w, parts = wrsecParts p lba m (firstOfBlock s.geometry lba) e r w) s (wrsecBody lba s) := by
  have hbody : wrsecBody lba s = (eraseFirst lba s).bind fun _ s => writeSector lba s := rfl
  rw [hbody, eraseFirst]
  split
  next hfirst =>
    rw [hfirst]
    refine .bind h (eraseBody_sends h lba) fun e t ht => (writeSector_sends ht.toServing lba).mono ?_
    rintro _ ⟨r, w, rfl⟩
    exact ⟨e, r, w, rfl⟩
  next hfirst =>
    rw [Bool.not_eq_true] at hfirst
    rw [hfirst]
    exact (writeSector_sends h lba).mono fun _ hparts => ⟨_, hparts⟩

end Sys2Proof.Machine
end

section
/-! PROOFS. The device's answers to the transfers of a trace, and what they say of the polls of a device that is ready at
every status read, or busy at every one. -/

namespace Sys2Proof.Machine

/-! ## The transfers of a trace and their answers -/

/-- The transfer of a transaction. -/
def Transaction.transfer (p : Params) : Transaction → List Byte × List Byte
  | .read a rx => (readFrame p.turnaround a, rx)
  | .write a v rx => (writeFrame a v, rx)

theorem transfersOf_transactionEvents (p : Params) (ts : List Transaction) :
    transfersOf (transactionEvents p ts) = ts.map (Transaction.transfer p) := by
  induction ts with
  | nil => rfl
  | cons t rest ih =>
    rw [← List.singleton_append, transactionEvents_append, transfersOf_append, ih]
    cases t <;> rfl

theorem transfersOf_pollEvents (p : Params) (polls : List (List Byte)) :
    transfersOf (pollEvents p polls) = polls.map fun rx => Transaction.transfer p (.read p.regStatus rx) := by
  induction polls with
  | nil => rfl
  | cons rx rest ih =>
    by_cases hrest : rest = []
    · subst hrest
      rfl
    · rw [pollEvents_cons _ _ _ hrest, transfersOf_append, ih]
      rfl

theorem respondAll_length (p : Params) (txs : List (List Byte)) (d : Device) (k : Nat) :
    (Device.respondAll p txs d k).1.length = txs.length := by
  induction txs generalizing d k with
  | nil => rfl
  | cons tx rest ih => simp [Device.respondAll, ih]

variable {p : Params} {d d' : Device} {k k' : Nat} {es es' : List BusEvent}

/-- The device answers the transfers of a trace in order, so it answers those of its parts. -/
theorem AnsweredBy.split (h : AnsweredBy p (es ++ es') d k d' k') :
    ∃ d₁ k₁, AnsweredBy p es d k d₁ k₁ ∧ AnsweredBy p es' d₁ k₁ d' k' := by
  unfold AnsweredBy at *
  rw [transfersOf_append, List.map_append, List.map_append, Device.respondAll_append, Prod.mk.injEq] at h
  obtain ⟨hreplies, hend⟩ := h
  obtain ⟨h1, h2⟩ := List.append_inj hreplies (by rw [respondAll_length, List.length_map, List.length_map])
  exact ⟨_, _, Prod.ext h1 rfl, Prod.ext h2 hend⟩

/-! ## A device that answers every status read alike -/

/-- A property of the device's next answers that each transfer passes on is left by all transfers of a trace. -/
theorem Descends.answered {P : Params → Nat → Device → Nat → Prop} (hP : Descends P) {n : Nat}
    (h : AnsweredBy p es d k d' k') (hsize : ∀ x ∈ transfersOf es, x.1.length ≤ 6)
    (hd : P p (n + (transfersOf es).length) d k) : P p n d' k' := by
  unfold AnsweredBy at h
  generalize transfersOf es = xs at *
  induction xs generalizing d k with
  | nil =>
    cases h
    exact hd
  | cons x rest ih =>
    simp only [List.map_cons, Device.respondAll, Prod.mk.injEq, List.cons.injEq] at h
    obtain ⟨⟨-, h1⟩, h2, h3⟩ := h
    exact ih (Prod.ext h1 (Prod.ext h2 h3)) (fun y hy => hsize y (List.mem_cons_of_mem _ hy))
      (hP p _ d k x.1 hd (hsize x List.mem_cons_self))

/-- Transactions pass such a property on to the answers after them. -/
theorem Descends.after_transactions {P : Params → Nat → Device → Nat → Prop} (hP : Descends P) {n : Nat}
    {ts : List Transaction} (h : AnsweredBy p (transactionEvents p ts) d k d' k') (hd : P p (n + ts.length) d k) :
    P p n d' k' := by
  refine hP.answered h (fun x hx => ?_) (by rwa [transfersOf_transactionEvents, List.length_map])
  rw [transfersOf_transactionEvents, List.mem_map] at hx
  obtain ⟨t, -, rfl⟩ := hx
  cases t with
  | read a rx => exact Nat.le_refl 6
  | write a v rx => exact Nat.le_succ 5

/-- The polls a device answers within its next `n` answers, if it answers each status read among them busy or each
ready. -/
theorem polls_answered {P : Params → Nat → Device → Nat → Prop} (hP : Descends P) {b : Bool}
    (hb : ∀ n d k, P p (n + 1) d k →
      statusBusy p (d.respond p (readFrame p.turnaround p.regStatus) k).bytes = b) {polls : List (List Byte)}
    (h : AnsweredBy p (pollEvents p polls) d k d' k') {n : Nat} (hd : P p n d k) {i : Nat} (hi : i < n)
    {rx : List Byte} (hrx : polls[i]? = some rx) : statusBusy p rx = b := by
  unfold AnsweredBy at h
  rw [transfersOf_pollEvents] at h
  induction polls generalizing d k n i with
  | nil => cases hrx
  | cons rx' rest ih =>
    obtain ⟨n, rfl⟩ : ∃ n', n = n' + 1 := ⟨n - 1, by omega⟩
    simp only [List.map_cons, Device.respondAll, Prod.mk.injEq, List.cons.injEq, Transaction.transfer] at h
    obtain ⟨⟨h0, h1⟩, h2, h3⟩ := h
    cases i with
    | zero =>
      cases hrx
      rw [← h0]
      exact hb n d k hd
    | succ i => exact ih (Prod.ext h1 (Prod.ext h2 h3)) (hP p n d k _ hd (Nat.le_refl 6)) (by omega) hrx

theorem readyFor_status (n : Nat) (d : Device) (k : Nat) (h : Device.readyFor p (n + 1) d k) :
    statusBusy p (d.respond p (readFrame p.turnaround p.regStatus) k).bytes = false := by
  simpa [statusBusy] using (h (readFrame p.turnaround p.regStatus) (Nat.le_refl 6)).1 rfl

theorem busyFor_status (n : Nat) (d : Device) (k : Nat) (h : Device.busyFor p (n + 1) d k) :
    statusBusy p (d.respond p (readFrame p.turnaround p.regStatus) k).bytes = true := by
  simpa [statusBusy] using (h (readFrame p.turnaround p.regStatus) (Nat.le_refl 6)).1 rfl

/-- A ready device shows ready at the first poll after transactions (R164). -/
theorem first_poll_ready {ts : List Transaction} {rx : List Byte} {rest : List (List Byte)} {n : Nat}
    (hans : AnsweredBy p (transactionEvents p ts ++ pollEvents p (rx :: rest)) d k d' k')
    (hd : Device.readyFor p n d k) (hn : ts.length < n) : statusBusy p rx = false := by
  obtain ⟨d₁, k₁, h1, h2⟩ := hans.split
  obtain ⟨n, rfl⟩ : ∃ n', n = n' + 1 + ts.length := ⟨n - 1 - ts.length, by omega⟩
  exact polls_answered descends_readyFor readyFor_status h2 (descends_readyFor.after_transactions h1 hd)
    (Nat.succ_pos n) rfl

/-- Parts sent to a device that answers every status read ready are all sent, with one poll each (R164). -/
theorem PartsEnd.of_ready {parts : List StagePart} {o : Option Stage} (h : PartsEnd p parts es o) (hm : 1 ≤ p.pollMax)
    {n : Nat} (hans : AnsweredBy p es d k d' k') (hd : Device.readyFor p n d k)
    (hn : (parts.map fun x => x.2.length + 1).sum ≤ n) :
    o = none ∧ es.length = 4 * (parts.map fun x => x.2.length + 1).sum := by
  induction h generalizing d k d' k' n with
  | nil => exact ⟨rfl, rfl⟩
  | @busy stage ts polls hpolls parts =>
    exfalso
    simp only [List.map_cons, List.sum_cons] at hn
    obtain ⟨hlen, hbusy⟩ := hpolls
    obtain ⟨rx, rest, rfl⟩ := List.exists_cons_of_length_pos (l := polls) (by omega)
    simpa [hbusy rx List.mem_cons_self] using first_poll_ready hans hd (by omega)
  | @ready stage ts parts polls es o hpolls hrest ih =>
    simp only [List.map_cons, List.sum_cons] at hn ⊢
    obtain ⟨d₁, k₁, h1, h2⟩ := hans.split
    obtain ⟨busy, last, rfl, -, hbusy, -⟩ := hpolls
    cases busy with
    | cons rx rest => simpa [hbusy rx List.mem_cons_self] using first_poll_ready h1 hd (by omega)
    | nil =>
      have hpart : transactionEvents p ts ++ pollEvents p [last] =
          transactionEvents p (ts ++ [.read p.regStatus last]) := by
        simp [transactionEvents, pollEvents]
      rw [List.nil_append, hpart] at h1 ⊢
      obtain ⟨n, rfl⟩ : ∃ n', n = n' + (ts.length + 1) := ⟨n - (ts.length + 1), by omega⟩
      obtain ⟨rfl, hlen⟩ := ih h2 (descends_readyFor.after_transactions h1 (by simpa using hd)) (by omega)
      refine ⟨rfl, ?_⟩
      rw [List.length_append, transactionEvents_length, List.length_append, List.length_singleton, hlen]
      omega

/-- Parts sent to a device that answers every status read busy end at the first wait (R164). -/
theorem PartsEnd.of_busy {stage : Stage} {ts : List Transaction} {parts : List StagePart} {o : Option Stage}
    (h : PartsEnd p ((stage, ts) :: parts) es o) {n : Nat} (hans : AnsweredBy p es d k d' k')
    (hd : Device.busyFor p n d k) (hn : ts.length + p.pollMax ≤ n) : o = some stage := by
  cases h with
  | busy => rfl
  | ready hpolls hrest =>
    obtain ⟨_, _, h12, -⟩ := hans.split
    obtain ⟨d₁, k₁, h1, h2⟩ := h12.split
    obtain ⟨n, rfl⟩ : ∃ n', n = n' + ts.length := ⟨n - ts.length, by omega⟩
    have hd1 := descends_busyFor.after_transactions h1 hd
    obtain ⟨busy, last, rfl, hlen, -, hready⟩ := hpolls
    simp only [List.length_append, List.length_singleton] at hlen
    have hbusy := polls_answered descends_busyFor busyFor_status h2 hd1 (i := busy.length) (rx := last)
      (by omega) (by simp)
    simp [hready] at hbusy

end Sys2Proof.Machine
end

section
/-! PROOFS. How ERASE, RDSEC and WRSEC end with a transport that completes. -/

namespace Sys2Proof.Machine

variable {p : Params} {m : Memory} {s : State} {d : Device} {k : Nat} {es : List BusEvent}

/-! ## How a sector request ends -/

/-- RESULT of a sector request that went on to its end, or whose stage timed out (R200). -/
def endCode : Option Stage → Byte
  | none => 0x00
  | some stage => stage.code

/-- Where an admitted sector request ends, from where its body does. -/
theorem exec_of_runOf (i : Instr) (hi : i.port = .request) (hh : s.halted = false) (hready : ready i s = true)
    {o : Option Stage} {l : Latches}
    (hbody : bodyOf i (s.begin i) = runOf o { (s.begin i).sent es d k l with sb := m }) :
    exec i s = .next { s.completed i (endCode o) es with
      sb := m, pins := s.pins.csHigh, device := d, draws := k, latches := l } := by
  cases o with
  | none =>
    rw [exec_of_body_ok i hh hready hbody, hi]
    simp [concludeOn, conclude, State.finish, State.sent, State.begin, State.completed, codeOk, endCode]
  | some stage =>
    rw [exec_of_body_raised i hh hready hbody, State.raise_eq_finish ?_ (e := .timeout stage) nofun]
    swap
    · exact hh
    simp [State.finish, State.sent, State.begin, State.completed, Error.code, endCode]

/-- The device answers the transfers of an instruction that is register transactions alone (R55). -/
theorem answeredBy_of_exec {i : Instr} {t : State} (hh : s.halted = false) (hready : ready i s = true)
    (hc : s.TransportCompletes) (hsends : transactsOnly i) (hexec : exec i s = .next t) :
    AnsweredBy s.params t.trace s.device s.draws t.device t.draws := by
  have hne : ∀ j, ¬transactsOnly j → i ≠ j := fun j hj e => hj (e ▸ hsends)
  obtain ⟨hreplies, hdevice⟩ := deviceAnswersEveryTransfer i s t hh hready hc (hne .enter id) (hne .leave id)
    (hne .init id) hexec
  exact Prod.ext hreplies (hdevice (hne .closeLink id))

/-- Where a request whose body sends parts ends, and what the device answered (R55). -/
theorem exec_of_parts {i : Instr} (hi : i.port = .request) (hh : s.halted = false) (hready : ready i s = true)
    (hc : s.TransportCompletes) (hsends : transactsOnly i) {K : List StagePart → Prop}
    (hbody : SendsParts s.params K (s.begin i) (bodyOf i (s.begin i))) :
    ∃ parts es o d k l, K parts ∧ PartsEnd s.params parts es o ∧ AnsweredBy s.params es s.device s.draws d k ∧
      exec i s = .next { s.completed i (endCode o) es with
        pins := s.pins.csHigh, device := d, draws := k, latches := l } ∧
      l.reg = some i.regOperand ∧ l.arg = some i.argOperand := by
  obtain ⟨parts, es, o, d, k, l, hK, -, hend, e, hreg, harg⟩ := hbody
  have hexec := exec_of_runOf (m := s.sb) i hi hh hready e
  exact ⟨parts, es, o, d, k, l, hK, hend, answeredBy_of_exec hh hready hc hsends hexec, hexec, hreg, harg⟩

/-! ## ERASE -/

/-- Where an admitted ERASE ends. -/
theorem exec_erase (hh : s.halted = false) (hinit : s.initialized = true) (hc : s.TransportCompletes) (lba : Word) :
    ∃ r es o d k l, PartsEnd s.params [(.erase, eraseTransactions s.params lba r)] es o ∧
      AnsweredBy s.params es s.device s.draws d k ∧
      exec (.erase lba) s = .next { s.completed (.erase lba) (endCode o) es with
        pins := s.pins.csHigh, device := d, draws := k, latches := l } ∧
      l.reg = some 0 ∧ l.arg = some lba := by
  obtain ⟨_, es, o, d, k, l, ⟨r, rfl⟩, h⟩ := exec_of_parts (i := .erase lba) rfl hh hinit hc trivial
    (eraseBody_sends (s := s.begin (.erase lba)) (m := s.sb) ⟨rfl, rfl, hc⟩ lba)
  exact ⟨r, es, o, d, k, l, h⟩

/-- Settles O33. -/
theorem eraseCompletes : Obligations.EraseCompletes := by
  intro lba s hh hinit hc hm
  obtain ⟨r, es, o, d, k, l, hend, hans, hexec, hreg, harg⟩ := exec_erase hh hinit hc lba
  refine ⟨_, hexec, ?_, fun hready => ?_, fun hok => ?_⟩
  · obtain ⟨-, -, -, ⟨rfl, -⟩ | ⟨rfl, -⟩⟩ := hend.single hm
    · exact .inl rfl
    · exact .inr rfl
  · obtain ⟨rfl, hlen⟩ := hend.of_ready hm hans hready (Nat.le_refl 9)
    exact ⟨rfl, hlen⟩
  · obtain ⟨polls, hes, hlen, ⟨rfl, hpolls⟩ | ⟨rfl, -⟩⟩ := hend.single hm
    · exact ⟨r, polls, es, d, k, l, hpolls, hes, by simp [eraseTransactions] at hlen; omega, rfl, hreg, harg⟩
    · cases hok

/-- Settles O34. -/
theorem eraseTimesOut : Obligations.EraseTimesOut := by
  intro lba s hh hinit hc hm
  obtain ⟨r, es, o, d, k, l, hend, hans, hexec, hreg, harg⟩ := exec_erase hh hinit hc lba
  refine ⟨fun hbusy => ?_, fun t ht htimeout => ?_⟩
  · obtain rfl := hend.of_busy hans hbusy (Nat.le_refl _)
    exact ⟨_, hexec, rfl⟩
  · obtain rfl := Host.Outcome.next.inj (hexec.symm.trans ht)
    obtain ⟨polls, hes, hlen, ⟨rfl, -⟩ | ⟨rfl, hpolls⟩⟩ := hend.single hm
    · cases htimeout
    · refine ⟨r, polls, es, d, k, l, hpolls, hes, ?_, rfl, hreg, harg⟩
      rw [hpolls.1] at hlen
      simp [eraseTransactions] at hlen
      omega

/-! ## RDSEC -/

/-- Where an admitted RDSEC ends: at its wait-ready, or after the word loop. -/
theorem exec_rdsec (hh : s.halted = false) (hinit : s.initialized = true) (hc : s.TransportCompletes)
    (hm : 1 ≤ s.params.pollMax) (lba : Word) :
    ∃ r es o d₁ k₁ d k l, PartsEnd s.params [(.read, readCommandTransactions s.params lba r)] es o ∧
      AnsweredBy s.params es s.device s.draws d₁ k₁ ∧ l.reg = some 0 ∧ l.arg = some lba ∧
      ((o = some .read ∧ exec (.rdsec lba) s = .next { s.completed (.rdsec lba) 0x01 es with
          pins := s.pins.csHigh, device := d, draws := k, latches := l }) ∨
        (o = none ∧ ∃ a w m', (sbWf s.sb = true → StoredWords 0 132 w s.sb m') ∧
          exec (.rdsec lba) s = .next { s.completed (.rdsec lba) 0x00 (es ++ transactionEvents s.params
              (.write s.params.regAddress 0 a :: readWordTransactions s.params w)) with
            sb := m', pins := s.pins.csHigh, device := d, draws := k, latches := l })) := by
  have hserving : Serving s.params s.sb (s.begin (.rdsec lba)) := ⟨rfl, rfl, hc⟩
  obtain ⟨_, es, o, d, k, l, ⟨r, rfl⟩, -, hend, e, hreg, harg⟩ := readCommand_sends hserving lba
  obtain ⟨-, -, -, ⟨rfl, -⟩ | ⟨rfl, -⟩⟩ := hend.single hm
  · obtain ⟨a, w, m', d', k', l', e', hreg', harg', hstored⟩ := readSector_stores (hserving.sent es d k l)
    have hbody : bodyOf (.rdsec lba) (s.begin (.rdsec lba)) = runOf none { (s.begin (.rdsec lba)).sent (es ++
        transactionEvents s.params (.write s.params.regAddress 0 a :: readWordTransactions s.params w)) d' k' l' with
          sb := m' } := by
      show loseSB (rdsecBody lba _) = _
      rw [rdsecBody_eq, e, runOf, Run.bind_ok, e', State.sent_sent]
      rfl
    have hexec := exec_of_runOf (.rdsec lba) rfl hh hinit hbody
    have hall := answeredBy_of_exec (i := .rdsec lba) hh hinit hc trivial hexec
    obtain ⟨d₁, k₁, hans, -⟩ := AnsweredBy.split hall
    exact ⟨r, es, none, d₁, k₁, d', k', l', hend, hans, hreg'.trans hreg, harg'.trans harg,
      .inr ⟨rfl, a, w, m', hstored, hexec⟩⟩
  · have hbody : bodyOf (.rdsec lba) (s.begin (.rdsec lba)) = runOf (some .read)
        { (s.begin (.rdsec lba)).sent es d k l with sb := s.sb } := by
      show loseSB (rdsecBody lba _) = _
      rw [rdsecBody_eq, e]
      rfl
    have hexec := exec_of_runOf (.rdsec lba) rfl hh hinit hbody
    have hans := answeredBy_of_exec (i := .rdsec lba) hh hinit hc trivial hexec
    exact ⟨r, es, some .read, d, k, d, k, l, hend, hans, hreg, harg, .inl ⟨rfl, hexec⟩⟩

/-- Settles O31. -/
theorem rdsecCompletes : Obligations.RdsecCompletes := by
  intro lba s hh hinit hsb hc hm
  obtain ⟨r, es, o, d₁, k₁, d, k, l, hend, hans, hreg, harg, ⟨rfl, hexec⟩ | ⟨rfl, a, w, m', hstored, hexec⟩⟩ :=
    exec_rdsec hh hinit hc hm lba
  · refine ⟨_, hexec, .inr rfl, fun hready => ?_, nofun⟩
    obtain ⟨h, -⟩ := hend.of_ready hm hans hready (by simp [readCommandTransactions])
    cases h
  · have hwords : (readWordTransactions s.params w).length = 264 := by simp [readWordTransactions]
    have hlength : ∀ n, es.length = n → (es ++ transactionEvents s.params
        (.write s.params.regAddress 0 a :: readWordTransactions s.params w)).length = n + 1060 := by
      intro n hn
      rw [List.length_append, transactionEvents_length, List.length_cons, hwords, hn]
    refine ⟨_, hexec, .inl rfl, fun hready => ⟨rfl, ?_⟩, fun _ => ?_⟩
    · obtain ⟨-, hlen⟩ := hend.of_ready hm hans hready (by simp [readCommandTransactions])
      exact hlength 20 hlen
    · obtain ⟨polls, rfl, hlen, ⟨-, hpolls⟩ | ⟨h, -⟩⟩ := hend.single hm
      swap
      · cases h
      obtain ⟨hform, -, hbytes⟩ := hstored hsb
      refine ⟨fun i => if i = 4 then a else r i, w, polls, _, m', d, k, l, hpolls, rfl, ?_, rfl, ?_, hform, hreg, harg⟩
      · refine (hlength _ rfl).trans ?_
        rw [show (readCommandTransactions s.params lba r).length = 4 from rfl] at hlen
        omega
      · exact fun i j hi hj => hbytes i j (Nat.zero_le i) (by omega) hj

/-- Settles O32. -/
theorem rdsecTimesOut : Obligations.RdsecTimesOut := by
  intro lba s hh hinit hc hm
  obtain ⟨r, es, o, d₁, k₁, d, k, l, hend, hans, hreg, harg, ⟨rfl, hexec⟩ | ⟨rfl, a, w, m', -, hexec⟩⟩ :=
    exec_rdsec hh hinit hc hm lba
  · refine ⟨fun _ => ⟨_, hexec, rfl⟩, fun t ht _ => ?_⟩
    obtain rfl := Host.Outcome.next.inj (hexec.symm.trans ht)
    obtain ⟨polls, hes, hlen, ⟨h, -⟩ | ⟨-, hpolls⟩⟩ := hend.single hm
    · cases h
    · refine ⟨r, polls, es, d, k, l, hpolls, hes, ?_, rfl, hreg, harg⟩
      rw [hpolls.1] at hlen
      simp [readCommandTransactions] at hlen
      omega
  · refine ⟨fun hbusy => ?_, fun t ht htimeout => ?_⟩
    · cases hend.of_busy hans hbusy (Nat.le_refl _)
    · obtain rfl := Host.Outcome.next.inj (hexec.symm.trans ht)
      cases htimeout

/-! ## WRSEC -/

/-- Each ending has a code of its own (R200). -/
theorem endCode_injective : Function.Injective endCode := by
  rintro (_ | (_ | _ | _ | _ | _)) (_ | (_ | _ | _ | _ | _)) <;> simp [endCode, Stage.code]

theorem writeWordTransactions_length (p : Params) (m : Memory) (r : Nat → List Byte) :
    (writeWordTransactions p m r).length = 267 := by
  simp [writeWordTransactions]

theorem wrsecParts_stages (lba : Word) (first : Bool) (e r w : Nat → List Byte) :
    (wrsecParts p lba m first e r w).map Prod.fst =
      (if first then [Stage.erase] else []) ++ [.writeData, .writeAddress, .writeExecute] := by
  cases first <;> rfl

theorem wrsecParts_transfers (lba : Word) (first : Bool) (e r w : Nat → List Byte) :
    ((wrsecParts p lba m first e r w).map fun x => x.2.length + 1).sum = if first then 283 else 274 := by
  cases first <;>
    simp [wrsecParts, writeWordTransactions_length, eraseTransactions, writeTripletTransactions]

/-- Where an admitted WRSEC ends. -/
theorem exec_wrsec {g : FlashGeometry} (hh : s.halted = false) (hinit : s.initialized = true)
    (hg : s.geometry = some g) (hfull : sbFull s.sb = true) (hc : s.TransportCompletes) {lba : Word} {first : Bool}
    (hfirst : (lba.toNat % g.pagesCount == 0) = first) :
    ∃ e r w es o d k l, PartsEnd s.params (wrsecParts s.params lba s.sb first e r w) es o ∧
      AnsweredBy s.params es s.device s.draws d k ∧
      exec (.wrsec lba) s = .next { s.completed (.wrsec lba) (endCode o) es with
        pins := s.pins.csHigh, device := d, draws := k, latches := l } ∧
      l.reg = some 0 ∧ l.arg = some lba := by
  have hblock : firstOfBlock (s.begin (.wrsec lba)).geometry lba = first := by
    rw [State.begin_geometry, hg]
    exact hfirst
  have hready : ready (.wrsec lba) s = true := by simp [ready, hinit, hfull]
  obtain ⟨_, es, o, d, k, l, ⟨e, r, w, rfl⟩, h⟩ := exec_of_parts (i := .wrsec lba) rfl hh hready hc trivial
    (wrsecBody_sends (s := s.begin (.wrsec lba)) (m := s.sb) ⟨rfl, rfl, hc⟩ lba)
  rw [hblock] at h
  exact ⟨e, r, w, es, o, d, k, l, h⟩

theorem wrsecParts_nodup (lba : Word) (first : Bool) (e r w : Nat → List Byte) :
    ((wrsecParts p lba m first e r w).map Prod.fst).Nodup := by
  rw [wrsecParts_stages]
  cases first <;> decide

/-- WRSEC ends with OK or with the timeout of one of its stages (R202). -/
theorem endCode_of_wrsecParts {lba : Word} {first : Bool} {e r w : Nat → List Byte} {o : Option Stage}
    (h : PartsEnd p (wrsecParts p lba m first e r w) es o) :
    endCode o ∈ ([0x00, 0x02, 0x03, 0x04, 0x05] : List Byte) := by
  cases o with
  | none => simp [endCode]
  | some stage =>
    have hstage := h.stage_mem rfl
    rw [wrsecParts_stages] at hstage
    cases stage with
    | read => cases first <;> simp at hstage
    | _ => simp [endCode, Stage.code]

/-- The number of events of WRSEC, from the number of polls of each stage (R178 (5)). -/
theorem wrsecEvents_length {polls : Stage → List (List Byte)} {lba : Word} {first : Bool} {e r w : Nat → List Byte}
    (h : ∀ x ∈ wrsecParts p lba m first e r w, readyPolls p (polls x.1)) :
    (stageEvents p polls (wrsecParts p lba m first e r w)).length =
      1081 + 5 * ((polls .writeData).length + (polls .writeAddress).length + (polls .writeExecute).length) +
        (if first then 31 + 5 * (polls .erase).length else 0) := by
  have hlen := stageEvents_length (p := p) polls fun x hx => (h x hx).ne_nil
  refine Nat.add_right_cancel (hlen.trans ?_)
  cases first <;>
    simp [wrsecParts, writeWordTransactions_length, eraseTransactions, writeTripletTransactions] <;> omega

/-- Settles O35. -/
theorem wrsecCompletes : Obligations.WrsecCompletes := by
  intro lba s g hh hinit hg hfull hc hm first
  obtain ⟨e, r, w, es, o, d, k, l, hend, hans, hexec, hreg, harg⟩ :=
    exec_wrsec hh hinit hg hfull hc (first := first) rfl
  clear_value first
  refine ⟨_, hexec, ⟨endCode o, endCode_of_wrsecParts hend, rfl⟩, fun hready => ?_, fun hok => ?_⟩
  · obtain ⟨rfl, hlen⟩ := hend.of_ready hm hans hready (by rw [wrsecParts_transfers]; split <;> omega)
    refine ⟨rfl, hlen.trans ?_⟩
    rw [wrsecParts_transfers]
    cases first <;> rfl
  · obtain rfl : o = none := endCode_injective (Option.some.inj hok)
    obtain ⟨polls, hnone, -⟩ := hend.polls (wrsecParts_nodup _ _ _ _ _)
    obtain ⟨hready, rfl⟩ := hnone rfl
    exact ⟨e, r, w, polls, d, k, l, hready, rfl, wrsecEvents_length hready, hreg, harg⟩

/-- Settles O36. -/
theorem wrsecTimesOut : Obligations.WrsecTimesOut := by
  intro lba s g hh hinit hg hfull hc hm first
  obtain ⟨e, r, w, es, o, d, k, l, hend, hans, hexec, hreg, harg⟩ :=
    exec_wrsec hh hinit hg hfull hc (first := first) rfl
  clear_value first
  refine ⟨fun hbusy => ⟨_, hexec, ?_⟩, fun t stage code hcode ht htimeout => ?_⟩
  · cases first with
    | true =>
      obtain rfl := hend.of_busy (stage := .erase) hans hbusy (by simp [eraseTransactions])
      rfl
    | false =>
      obtain rfl := hend.of_busy (stage := .writeData) hans hbusy (by rw [writeWordTransactions_length])
      rfl
  · obtain rfl := Host.Outcome.next.inj (hexec.symm.trans ht)
    obtain ⟨polls, -, hsome⟩ := hend.polls (wrsecParts_nodup _ _ _ _ _)
    obtain rfl : code = stage.code := by
      simp only [List.mem_cons, Prod.mk.injEq, List.not_mem_nil, or_false] at hcode
      rcases hcode with ⟨rfl, rfl⟩ | ⟨rfl, rfl⟩ | ⟨rfl, rfl⟩ | ⟨rfl, rfl⟩ <;> rfl
    obtain rfl : o = some stage := endCode_injective (Option.some.inj htimeout)
    obtain ⟨before, part, rest, hparts, hready, hbusy, rfl⟩ := hsome stage rfl
    exact ⟨e, r, w, polls, before, rest, part, d, k, l, hparts, hready, hbusy, rfl, hreg, harg⟩

end Sys2Proof.Machine
end

section
/-! PROOFS. How often WRSEC sends the execute-erase command (R179). -/

namespace Sys2Proof.Machine

variable {p : Params} {m : Memory}

/-- A write of the execute-erase command to the command register. -/
def Transaction.executesErase (p : Params) : Transaction → Bool
  | .read _ _ => false
  | .write a v _ => decide (a = p.regCommand ∧ v = p.cmdEExec)

theorem writeFrame_injective {a b : RegAddr} {v w : Word} (h : writeFrame a v = writeFrame b w) : a = b ∧ v = w := by
  have hdecode := congrArg decodeFrame h
  rw [decodeFrame_writeFrame, decodeFrame_writeFrame] at hdecode
  cases hdecode
  exact ⟨rfl, rfl⟩

theorem readFrame_ne_writeFrame (turnaround : Byte) (a b : RegAddr) (v : Word) :
    readFrame turnaround a ≠ writeFrame b v := by
  intro h
  have hlen := congrArg List.length h
  simp [readFrame_length, writeFrame_length] at hlen

/-- A transfer shows the execute-erase command exactly if its transaction writes it. -/
theorem transfer_executesErase (t : Transaction) :
    ((t.transfer p).1 == writeFrame p.regCommand p.cmdEExec) = t.executesErase p := by
  cases t with
  | read a rx => simpa [Transaction.transfer, Transaction.executesErase] using readFrame_ne_writeFrame _ _ _ _
  | write a v rx =>
    have hiff : writeFrame a v = writeFrame p.regCommand p.cmdEExec ↔ a = p.regCommand ∧ v = p.cmdEExec :=
      ⟨writeFrame_injective, by rintro ⟨rfl, rfl⟩; rfl⟩
    simp [Transaction.transfer, Transaction.executesErase, hiff, beq_eq_decide]

/-- The execute-erase commands in the trace of parts are those of their transactions: polls are reads. -/
theorem countErases_stageEvents (polls : Stage → List (List Byte)) (parts : List StagePart) :
    (transfersOf (stageEvents p polls parts)).countP (fun x => x.1 == writeFrame p.regCommand p.cmdEExec) =
      (parts.map fun x => x.2.countP (Transaction.executesErase p)).sum := by
  induction parts with
  | nil => rfl
  | cons x parts ih =>
    have hpolls : (transfersOf (pollEvents p (polls x.1))).countP
        (fun x => x.1 == writeFrame p.regCommand p.cmdEExec) = 0 := by
      simp [transfersOf_pollEvents, List.countP_map, Function.comp_def, transfer_executesErase,
        Transaction.executesErase]
    have htransactions : (transfersOf (transactionEvents p x.2)).countP
        (fun x => x.1 == writeFrame p.regCommand p.cmdEExec) = x.2.countP (Transaction.executesErase p) := by
      simp [transfersOf_transactionEvents, List.countP_map, Function.comp_def, transfer_executesErase]
    rw [stageEvents] at ih ⊢
    rw [List.flatMap_cons, transfersOf_append, transfersOf_append, List.countP_append, List.countP_append, hpolls,
      htransactions, ih, List.map_cons, List.sum_cons, Nat.add_zero]

/-- The parts of WRSEC execute an erase once at a first sector, and never otherwise (R179). -/
theorem countErases_wrsecParts (hreg : distinctRegisters p = true) (hcmd : distinctCommands p = true) (lba : Word)
    (first : Bool) (e r w : Nat → List Byte) :
    ((wrsecParts p lba m first e r w).map fun x => x.2.countP (Transaction.executesErase p)).sum =
      if first then 1 else 0 := by
  obtain ⟨⟨-, hconfig, -, -⟩, ⟨hstatus, -, -⟩, ⟨haddress, hdata⟩, -⟩ := (distinctRegisters_iff p).mp hreg
  obtain ⟨hwexec, -, -, hpulse, -⟩ := distinctCommands_ne hcmd
  obtain ⟨hunlock, hconfirm, hwunlock, hwconfirm⟩ := distinctCommands_plain hcmd
  simp only [PlainCommand, List.mem_cons, not_or] at hunlock hconfirm hwunlock hwconfirm
  have hwords : (writeWordTransactions p m r).countP (Transaction.executesErase p) = 0 := by
    rw [List.countP_eq_zero]
    intro x hx
    simp only [writeWordTransactions, List.mem_append, List.mem_cons, List.mem_flatMap, List.not_mem_nil,
      or_false] at hx
    obtain (rfl | rfl | rfl) | ⟨i, -, rfl | rfl⟩ := hx <;>
      simp [Transaction.executesErase, hstatus, Ne.symm haddress, Ne.symm hdata, hpulse]
  cases first <;>
    simp [wrsecParts, hwords, eraseTransactions, writeTripletTransactions, Transaction.executesErase, hconfig,
      hstatus, Ne.symm haddress, hwexec, hunlock, hconfirm, hwunlock, hwconfirm]

/-- Settles O37. -/
theorem eraseCount : Obligations.EraseCount := by
  intro lba s t g hh hinit hg hfull hc hreg hcmd hexec hok
  obtain ⟨e, r, w, es, o, d, k, l, hend, -, hexec', -, -⟩ := exec_wrsec (lba := lba) hh hinit hg hfull hc rfl
  obtain rfl := Host.Outcome.next.inj (hexec'.symm.trans hexec)
  obtain rfl : o = none := endCode_injective (Option.some.inj hok)
  obtain ⟨polls, hnone, -⟩ := hend.polls (wrsecParts_nodup _ _ _ _ _)
  obtain ⟨-, rfl⟩ := hnone rfl
  rw [← List.countP_eq_length_filter]
  refine (countErases_stageEvents polls _).trans ?_
  rw [countErases_wrsecParts hreg hcmd]
  simp

end Sys2Proof.Machine
end

section
/-! PROOFS. The errors each instruction can raise (R201, R202), and from them the codes it can leave in RESULT and what a
transport that completes excludes (R208). -/

namespace Sys2Proof.Machine

/-! ## What a part of a request can raise -/

/-- The part `r` of a request, run from `s`, raises only errors among `errors`, and besides them a transport failure, but
none with a transport that completes (R207, R208). -/
structure Raises {α : Type} (errors : List Error) (s : State) (r : Run α) : Prop where
  completes : s.TransportCompletes → r.state.TransportCompletes
  raised : ∀ e, r.ending = some (.raised e) → e ∈ errors ∨ e = .transportFailure ∧ ¬s.TransportCompletes

section
variable {errors : List Error} {s : State}

theorem Raises.ok {α : Type} {a : α} {t : State} (h : t.answers = s.answers := by rfl) :
    Raises errors s (.ok a t) :=
  ⟨fun hc => by simpa [State.TransportCompletes, h] using hc, nofun⟩

theorem Raises.error {α : Type} {e : Error} {t : State} (he : e ∈ errors) (h : t.answers = s.answers := by rfl) :
    Raises errors s (.ended (.raised e) t : Run α) := by
  refine ⟨fun hc => by simpa [State.TransportCompletes, h] using hc, fun e' he' => .inl ?_⟩
  cases he'
  exact he

theorem Raises.bind {α β : Type} {r : Run α} {f : α → State → Run β} (hr : Raises errors s r)
    (hf : ∀ a t, Raises errors t (f a t)) : Raises errors s (r.bind f) := by
  cases r with
  | ended w t => exact ⟨hr.completes, hr.raised⟩
  | ok a t =>
    refine ⟨fun hc => (hf a t).completes (hr.completes hc), fun e he => ?_⟩
    obtain hmem | ⟨rfl, hfails⟩ := (hf a t).raised e he
    · exact .inl hmem
    · exact .inr ⟨rfl, fun hc => hfails (hr.completes hc)⟩

/-- A part run after an update that does not touch the answers. -/
theorem Raises.after {α : Type} {r : Run α} {t : State} (h : Raises errors t r) (ha : t.answers = s.answers) :
    Raises errors s r := by
  have heq : t.TransportCompletes = s.TransportCompletes := by simp only [State.TransportCompletes, ha]
  exact ⟨heq ▸ h.completes, heq ▸ h.raised⟩

/-- A transport action fails only where the transport answers so (R94). -/
theorem attempt_raises {α : Type} (e : BusEvent) (s : State) {done : State → Run α}
    (hd : ∀ t, Raises errors t (done t)) : Raises errors s (attempt e s done) := by
  by_cases hc : s.TransportCompletes
  · rw [attempt_completes e done hc]
    have hdone := hd { s with answers := s.answers.drop 1 }
    refine ⟨fun _ => hdone.completes (completes_drop hc 1), fun e' he' => ?_⟩
    obtain hmem | ⟨-, hfails⟩ := hdone.raised e' he'
    · exact .inl hmem
    · exact absurd (completes_drop hc 1) hfails
  · refine ⟨fun h => absurd h hc, ?_⟩
    have hdone : ∀ t e', (done t).ending = some (.raised e') →
        e' ∈ errors ∨ e' = .transportFailure ∧ ¬s.TransportCompletes :=
      fun t e' he' => ((hd t).raised e' he').imp_right fun h => ⟨h.1, hc⟩
    unfold attempt
    split
    · exact hdone _
    · exact hdone _
    · intro e' he'
      cases he'
      exact .inr ⟨rfl, hc⟩
    · exact nofun
    · exact nofun

theorem emit_raises (e : BusEvent) (s : State) : Raises errors s (emit e s) := attempt_raises e s fun _ => .ok

theorem emitAll_raises (es : List BusEvent) (s : State) : Raises errors s (emitAll es s) := by
  induction es generalizing s with
  | nil => exact .ok
  | cons e rest ih => exact (emit_raises e s).bind fun _ t => ih t

theorem xfer_raises (tx : List Byte) (s : State) : Raises errors s (xfer tx s) :=
  (attempt_raises _ (s.sending tx) fun _ => .ok).after rfl

theorem transact_raises (tx : List Byte) (s : State) : Raises errors s (transact tx s) :=
  (emit_raises _ s).bind fun _ t => (emit_raises _ t).bind fun _ t =>
    (xfer_raises tx t).bind fun _ t => (emit_raises _ t).bind fun _ _ => .ok

theorem regRead_raises (a : RegAddr) (s : State) : Raises errors s (regRead a s) :=
  (transact_raises _ s).bind fun _ _ => .ok

theorem regWrite_raises (a : RegAddr) (v : Word) (s : State) : Raises errors s (regWrite a v s) :=
  (transact_raises _ s).bind fun _ _ => .ok

theorem clearStatus_raises (s : State) : Raises errors s (clearStatus s) :=
  (regRead_raises _ s).bind fun v t => (regWrite_raises _ v (t.hold v)).after rfl

theorem enableWrite_raises (s : State) : Raises errors s (enableWrite s) :=
  (regRead_raises _ s).bind fun v t => (regWrite_raises _ _ (t.hold v)).after rfl

/-- A wait-ready raises the timeout of its stage (R164). -/
theorem pollLoop_raises {stage : Stage} (h : .timeout stage ∈ errors) (p left : Nat) (s : State) :
    Raises errors s (pollLoop stage p left s) := by
  induction left generalizing p s with
  | zero => exact .error h
  | succ left ih =>
    unfold pollLoop
    refine Raises.bind ((regRead_raises _ _).after rfl) fun st t => ?_
    split
    · exact .ok
    · cases left with
      | zero => exact .error h
      | succ left => exact (emit_raises _ t).bind fun _ u => ih (p + 1) u

theorem waitReady_raises {stage : Stage} (h : .timeout stage ∈ errors) (s : State) :
    Raises errors s (waitReady stage s) := pollLoop_raises h 1 _ s

/-! ## The bodies -/

theorem eraseBody_raises (h : .timeout .erase ∈ errors) (lba : Word) (s : State) :
    Raises errors s (eraseBody lba s) :=
  (clearStatus_raises s).bind fun _ t => (enableWrite_raises t).bind fun _ t =>
    (regWrite_raises _ _ t).bind fun _ t => (regWrite_raises _ _ t).bind fun _ t =>
      (regWrite_raises _ _ t).bind fun _ t => (regWrite_raises _ _ t).bind fun _ t => waitReady_raises h t

theorem eraseFirst_raises (h : .timeout .erase ∈ errors) (lba : Word) (s : State) :
    Raises errors s (eraseFirst lba s) := by
  unfold eraseFirst
  split
  · exact eraseBody_raises h lba s
  · exact .ok

theorem writeWords_raises (n i : Nat) (s : State) : Raises errors s (writeWords n i s) := by
  induction n generalizing i s with
  | zero => exact .ok
  | succ n ih =>
    exact Raises.bind ((regWrite_raises _ _ _).after rfl) fun _ t =>
      (regWrite_raises _ _ t).bind fun _ t => ih (i + 1) t

theorem readWords_raises (n i : Nat) (s : State) : Raises errors s (readWords n i s) := by
  induction n generalizing i s with
  | zero => exact .ok
  | succ n ih =>
    exact Raises.bind ((regWrite_raises _ _ _).after rfl) fun _ t =>
      (regRead_raises _ t).bind fun _ t => (ih (i + 1) _).after rfl

theorem openBody_raises (s : State) : Raises errors s (openBody s) := by
  unfold openBody
  split
  · exact .ok
  · exact (emitAll_raises _ s).bind fun _ _ => .ok

end

/-- The errors an instruction can raise, a transport failure apart (R202). -/
def errorsOf : Instr → List Error
  | .openLink | .closeLink | .enter | .leave | .rdreg _ | .wrreg _ _ | .spiRd _ | .spiWr _ _ => []
  | .init => [.invalidGeometry]
  | .rdsec _ => [.timeout .read]
  | .erase _ => [.timeout .erase]
  | .wrsec _ => [.timeout .erase, .timeout .writeData, .timeout .writeAddress, .timeout .writeExecute]

theorem wrsecBody_raises (lba : Word) (s : State) : Raises (errorsOf (.wrsec lba)) s (wrsecBody lba s) :=
  (eraseFirst_raises (by simp [errorsOf]) lba s).bind fun _ t => (clearStatus_raises t).bind fun _ t =>
    (regWrite_raises _ _ t).bind fun _ t => (writeWords_raises _ _ t).bind fun _ t =>
      (waitReady_raises (by simp [errorsOf]) t).bind fun _ t => (regWrite_raises _ _ t).bind fun _ t =>
        (waitReady_raises (by simp [errorsOf]) t).bind fun _ t => (regWrite_raises _ _ t).bind fun _ t =>
          (regWrite_raises _ _ t).bind fun _ t => (regWrite_raises _ _ t).bind fun _ t =>
            waitReady_raises (by simp [errorsOf]) t

theorem rdsecBody_raises (lba : Word) (s : State) : Raises (errorsOf (.rdsec lba)) s (rdsecBody lba s) :=
  (clearStatus_raises s).bind fun _ t => (regWrite_raises _ _ t).bind fun _ t =>
    (regWrite_raises _ _ t).bind fun _ t => (waitReady_raises (by simp [errorsOf]) t).bind fun _ t =>
      (regWrite_raises _ _ t).bind fun _ t => readWords_raises _ _ t

theorem initBody_raises (s : State) : Raises (errorsOf .init) s (initBody s) := by
  unfold initBody
  split
  · exact .ok (showCachedRaw_answers s)
  · refine (openBody_raises s).bind fun _ t => ((emitAll_raises _ t).bind fun _ _ => .ok).bind fun _ t =>
      (regRead_raises _ t).bind fun _ t => (regRead_raises _ t).bind fun v t => ?_
    unfold adoptGeometry
    split
    · exact .ok
    · exact .error (by simp [errorsOf])

/-- Every body raises only the errors of its instruction's row (R202). -/
theorem bodyOf_raises (i : Instr) (s : State) : Raises (errorsOf i) s (bodyOf i s) := by
  cases i with
  | openLink => exact openBody_raises s
  | closeLink => exact (emitAll_raises _ s).bind fun _ _ => .ok
  | enter => exact (emitAll_raises _ s).bind fun _ _ => .ok
  | leave => exact (emitAll_raises _ s).bind fun _ _ => .ok
  | rdreg a => exact (regRead_raises a s).bind fun _ _ => .ok
  | wrreg a v => exact regWrite_raises a v s
  | init => exact initBody_raises s
  | rdsec lba =>
    obtain ⟨he, m, k, hs, -⟩ := loseSB_state (rdsecBody lba s)
    have h := rdsecBody_raises lba s
    exact ⟨by rw [bodyOf, hs]; exact h.completes, by rw [bodyOf, he]; exact h.raised⟩
  | wrsec lba => exact wrsecBody_raises lba s
  | erase lba => exact eraseBody_raises (by simp [errorsOf]) lba s
  | spiRd a => exact (regRead_raises a s).bind fun _ _ => .ok
  | spiWr a v => exact regWrite_raises a v s

theorem transportFailure_not_mem_errorsOf (i : Instr) : .transportFailure ∉ errorsOf i := by
  cases i <;> simp [errorsOf]

/-- With a transport that completes no body fails (R208). -/
theorem bodyOf_of_completes (i : Instr) {s : State} (hc : s.TransportCompletes) :
    (bodyOf i s).ending ≠ some (.raised .transportFailure) := by
  intro h
  obtain hmem | ⟨-, hfails⟩ := (bodyOf_raises i s).raised _ h
  · exact transportFailure_not_mem_errorsOf i hmem
  · exact hfails hc

/-- The codes of a row are OK, those of its errors, and those of a transport failure and of a refusal; a frame put on the
channel by itself has no OK (R202, log 7). -/
theorem mem_codesOf (i : Instr) : (i.port = .request → codeOk ∈ codesOf i) ∧ (∀ e ∈ errorsOf i, e.code ∈ codesOf i) ∧
    Error.transportFailure.code ∈ codesOf i ∧ codeRefused ∈ codesOf i := by
  cases i <;> simp [Instr.port, codesOf, errorsOf, Error.code, Stage.code, codeOk, codeRefused]

/-- The code of an error that the body of `i` raises is one of its row (R202). -/
theorem code_mem_codesOf {i : Instr} {s : State} {e : Error} (h : (bodyOf i s).ending = some (.raised e)) :
    e.code ∈ codesOf i := by
  obtain ⟨-, herrors, hfailure, -⟩ := mem_codesOf i
  obtain hmem | ⟨rfl, -⟩ := (bodyOf_raises i s).raised e h
  · exact herrors e hmem
  · exact hfailure

/-! ## What an instruction leaves in RESULT -/

/-- Only a transport failure has the code 0x20 (R200). -/
theorem Error.code_eq_transportFailure {e : Error} (h : e.code = 0x20) : e = .transportFailure := by
  cases e with
  | timeout stage => cases stage <;> simp [Error.code, Stage.code] at h
  | invalidGeometry => simp [Error.code] at h
  | transportFailure => rfl

/-- RESULT after a body that no reset cut: OK for a completed request, the code of an error, and the old value for a
completed frame and for an action that never completes, which leaves the sequencer running (R200, R203, U16, log 7). -/
theorem concludeOn_result (p : Port) {r : Run Unit} (h : r.ending ≠ some .abandoned) :
    (p = .request ∧ (concludeOn p r).result = some codeOk) ∨
      (∃ e, r.ending = some (.raised e) ∧ (concludeOn p r).result = some e.code) ∨
        (concludeOn p r).result = r.state.result ∧ (p = .link ∨ (concludeOn p r).seq = r.state.seq) := by
  cases r with
  | ok a s =>
    cases p with
    | request => exact .inl ⟨rfl, rfl⟩
    | link => exact .inr (.inr ⟨rfl, .inl rfl⟩)
  | ended w s =>
    cases w with
    | raised e => cases p <;> exact .inr (.inl ⟨e, rfl, rfl⟩)
    | abandoned => exact absurd rfl h
    | hung => cases p <;> exact .inr (.inr ⟨rfl, .inr rfl⟩)

/-- No body writes RESULT or the sequencer's state. -/
theorem bodyOf_result_seq (i : Instr) (s : State) :
    (bodyOf i s).state.result = s.result ∧ (bodyOf i s).state.seq = s.seq := by
  have hb : BusOnly _ _ := bodyOf_changesOnly i s
  exact ⟨hb.result.trans (by cases i <;> rfl), hb.seq.trans (by cases i <;> rfl)⟩

/-- Settles O40: a refusal's code is in every row, and a body ends OK or raises an error of its row. -/
theorem resultCodesOfRequests : Obligations.ResultCodesOfRequests := by
  intro i s t h hr hidle _
  obtain ⟨hcodeOk, -, -, hcodeRefused⟩ := mem_codesOf i
  obtain ⟨reason, rfl⟩ | ⟨-, -, rfl⟩ := exec_cases h
  · have hrefused : ∃ c ∈ codesOf i, (s.refuse reason).result = some c := ⟨codeRefused, hcodeRefused, rfl⟩
    exact ⟨fun _ => hrefused, fun _ => .inr hrefused⟩
  · obtain ⟨hresult, hseq⟩ := bodyOf_result_seq i (s.begin i)
    obtain ⟨hport, hok⟩ | ⟨e, he, hcode⟩ | ⟨hkept, hlink⟩ :=
      concludeOn_result i.port ((bodyOf_stops i (s.begin i)).noReset hr).1
    · exact ⟨fun _ => ⟨codeOk, hcodeOk hport, hok⟩, fun hlink => absurd (hport.symm.trans hlink) nofun⟩
    · exact ⟨fun _ => ⟨_, code_mem_codesOf he, hcode⟩, fun _ => .inr ⟨_, code_mem_codesOf he, hcode⟩⟩
    · refine ⟨fun hport => ?_, fun _ => .inl (hkept.trans hresult)⟩
      obtain hlink | hrunning := hlink
      · exact absurd (hport.symm.trans hlink) nofun
      · exact absurd (hidle.symm.trans (hrunning.trans hseq)) nofun

/-- Settles O42: the body does not fail, and only a failure has the code 0x20. -/
theorem completingTransportNeverFails : Obligations.CompletingTransportNeverFails := by
  intro i s t h hc hresult
  obtain ⟨reason, rfl⟩ | ⟨-, -, rfl⟩ := exec_cases h
  · exact ⟨rfl, by simp [codeRefused]⟩
  · have hfail := bodyOf_of_completes i (s := s.begin i) hc
    have hstops := ((bodyOf_stops i (s.begin i)).noReset (noReset_of_completes hc)).1
    have hconcl := concludeOn_concludes i.port hstops
    obtain ⟨-, -, -, -, hhalted⟩ := hconcl.untouched
    refine ⟨by simp [hconcl.halted, hfail, hhalted], ?_⟩
    obtain ⟨-, hok⟩ | ⟨e, he, hcode⟩ | ⟨hkept, -⟩ := concludeOn_result i.port hstops
    · simp [hok, codeOk]
    · rw [hcode, ne_eq, Option.some.injEq]
      exact fun h20 => hfail (Error.code_eq_transportFailure h20 ▸ he)
    · rw [hkept, (bodyOf_result_seq i (s.begin i)).1]
      exact hresult

end Sys2Proof.Machine
end

section
/-! PROOFS. A request cut at one of its bus events: up to that event the pending answers make no difference, and what an
answer that does not complete the event leaves is said once, for every body (R203, R207, R230, U16). -/

namespace Sys2Proof.Machine

/-! ## Answers -/

/-- `s` with `as` as the transport's pending answers. -/
def State.answering (s : State) (as : List Answer) : State := { s with answers := as }

/-- The outcome `r` with `as` as the transport's pending answers. -/
def Run.answering {α : Type} (as : List Answer) : Run α → Run α
  | .ok a s => .ok a (s.answering as)
  | .ended w s => .ended w (s.answering as)

@[simp] theorem Run.state_answering {α : Type} (as : List Answer) (r : Run α) :
    (r.answering as).state = r.state.answering as := by
  cases r <;> rfl

@[simp] theorem Run.ending_answering {α : Type} (as : List Answer) (r : Run α) :
    (r.answering as).ending = r.ending := by
  cases r <;> rfl

/-- How an answer ends the request whose action it does not complete (R94). -/
def Answer.stops : Answer → Option Ending
  | .completes => none
  | .fails => some (.raised .transportFailure)
  | .never => some .hung
  | .reset => some .abandoned

/-- What such an answer to event `e` leaves: only a failure shows the event in the trace (R207, U16, R230). -/
def Answer.leaves (a : Answer) (e : BusEvent) (s : State) : State :=
  match a with
  | .fails => s.failEvent e
  | .completes | .never | .reset => s

theorem attempt_stopped {α : Type} {a : Answer} {w : Ending} (h : a.stops = some w) (e : BusEvent) (s : State)
    (rest : List Answer) (done : State → Run α) :
    attempt e (s.answering (a :: rest)) done = .ended w (a.leaves e (s.answering rest)) := by
  cases a <;> cases h <;> rfl

/-! ## Where a cut finds the block -/

/-- The fields that neither bus events nor latches nor the word loops write, `link_open` apart. -/
def State.standing (s : State) :=
  (s.initialized, s.geometry, s.seq, s.result, s.value, s.params, s.inputs, s.refusal, s.seen)

theorem BusOnly.standing {s t : State} (h : BusOnly s t) : t.standing = s.standing := by
  simp only [State.standing, h.initialized, h.geometry, h.seq, h.result, h.value, h.params, h.inputs, h.refusal, h.seen]

/-- `u` is where a part of a request that began in `s` and emits the events `es` attempts the event number `n`, as `e`,
with `link_open` at `link`. -/
structure AtEvent (link : Bool) (s : State) (es : List BusEvent) (n : Nat) (e : BusEvent) (u : State) : Prop where
  standing : u.standing = s.standing
  linkOpen : u.linkOpen = link
  trace : u.trace = s.trace ++ es.take n
  step : u.stepIdx = s.stepIdx + n
  pins : u.pins = (es.take n).foldl (fun ps e => drivePins e ps) s.pins
  line : ∀ x, es[n]? = some x → e.line = x.line

/-- The part `f` of a request, run from `s`, emits the events `es` with the outcome `r` when they all complete, and an
answer that does not complete the event number `n` stops it there, with `link_open` at `link n`; what else it does to SB
and the draws is left open, for RDSEC (U13). -/
structure Cuts {α : Type} (link : Nat → Bool) (s : State) (f : State → Run α) (es : List BusEvent) (r : Run α) :
    Prop where
  uncut : f (s.answering []) = r.answering []
  goesOn : ∀ as, f (s.answering (List.replicate es.length .completes ++ as)) = r.answering as
  trace : r.state.trace = s.trace ++ es
  step : r.state.stepIdx = s.stepIdx + es.length
  pins : r.state.pins = es.foldl (fun ps e => drivePins e ps) s.pins
  cut : ∀ n < es.length, ∃ e u, AtEvent (link n) s es n e u ∧
    ∀ a w rest, a.stops = some w → ∃ m k,
      f (s.answering (List.replicate n .completes ++ a :: rest)) =
        .ended w { a.leaves e (u.answering rest) with sb := m, draws := k }

section
variable {α β : Type} {link link' : Nat → Bool} {s t : State} {f f' : State → Run α} {g : α → State → Run β}
  {es es' : List BusEvent}

/-- A cut in the first of two parts. -/
theorem AtEvent.append {l : Bool} {n : Nat} {e : BusEvent} {u : State} (h : AtEvent l s es n e u) (hn : n < es.length)
    (es' : List BusEvent) : AtEvent l s (es ++ es') n e u := by
  have htake : (es ++ es').take n = es.take n := List.take_append_of_le_length hn.le
  refine ⟨h.standing, h.linkOpen, htake ▸ h.trace, h.step, htake ▸ h.pins, ?_⟩
  rw [List.getElem?_append_left hn]
  exact h.line

/-- A cut in the second of two parts. -/
theorem AtEvent.after_append {l : Bool} {n : Nat} {e : BusEvent} {u : State} (h : AtEvent l t es' n e u)
    (hstanding : t.standing = s.standing) (htrace : t.trace = s.trace ++ es) (hstep : t.stepIdx = s.stepIdx + es.length)
    (hpins : t.pins = es.foldl (fun ps e => drivePins e ps) s.pins) :
    AtEvent l s (es ++ es') (es.length + n) e u := by
  refine ⟨h.standing.trans hstanding, h.linkOpen, ?_, ?_, ?_, ?_⟩
  · rw [h.trace, htrace, List.take_length_add_append, List.append_assoc]
  · rw [h.step, hstep, Nat.add_assoc]
  · rw [h.pins, hpins, List.take_length_add_append, List.foldl_append]
  · rw [List.getElem?_append_right (Nat.le_add_right _ _), Nat.add_sub_cancel_left]
    exact h.line

/-- A part that goes on, then another. -/
theorem Cuts.bind {a : α} {r : Run β} (hf : Cuts link s f es (.ok a t)) (hg : Cuts link' t (g a) es' r)
    (hstanding : t.standing = s.standing) :
    Cuts (fun n => if n < es.length then link n else link' (n - es.length)) s (fun s => (f s).bind g) (es ++ es') r where
  uncut := by rw [hf.uncut]; exact hg.uncut
  goesOn as := by
    rw [List.length_append, List.replicate_add, List.append_assoc, hf.goesOn]
    exact hg.goesOn as
  trace := by rw [hg.trace, show t.trace = _ from hf.trace, List.append_assoc]
  step := by rw [hg.step, show t.stepIdx = _ from hf.step, List.length_append, Nat.add_assoc]
  pins := by rw [hg.pins, show t.pins = _ from hf.pins, List.foldl_append]
  cut n hn := by
    by_cases hfirst : n < es.length
    · obtain ⟨e, u, hu, hstop⟩ := hf.cut n hfirst
      refine ⟨e, u, by simpa only [if_pos hfirst] using hu.append hfirst es', fun a w rest ha => ?_⟩
      obtain ⟨m, k, heq⟩ := hstop a w rest ha
      exact ⟨m, k, by rw [heq, Run.bind_ended]⟩
    · obtain ⟨n, rfl⟩ := Nat.exists_eq_add_of_le (Nat.le_of_not_lt hfirst)
      obtain ⟨e, u, hu, hstop⟩ := hg.cut n (by simpa using hn)
      refine ⟨e, u, by simpa using hu.after_append hstanding hf.trace hf.step hf.pins, fun a w rest ha => ?_⟩
      obtain ⟨m, k, heq⟩ := hstop a w rest ha
      refine ⟨m, k, ?_⟩
      rw [List.replicate_add, List.append_assoc, hf.goesOn]
      exact heq

/-- A part that stops, whatever was to follow. -/
theorem Cuts.bind_of_ended {w : Ending} (hf : Cuts link s f es (.ended w t)) :
    Cuts link s (fun s => (f s).bind g) es (.ended w t) where
  uncut := by rw [hf.uncut]; rfl
  goesOn as := by rw [hf.goesOn]; rfl
  trace := hf.trace
  step := hf.step
  pins := hf.pins
  cut n hn := by
    obtain ⟨e, u, hu, hstop⟩ := hf.cut n hn
    refine ⟨e, u, hu, fun a w rest ha => ?_⟩
    obtain ⟨m, k, heq⟩ := hstop a w rest ha
    exact ⟨m, k, by rw [heq, Run.bind_ended]⟩

/-- A part that does in `s` what another does in `s'`, which shows the same. -/
theorem Cuts.after {s' : State} {r : Run α} (h : Cuts link s' f' es r)
    (heq : ∀ as, f (s.answering as) = f' (s'.answering as))
    (hs : (s'.standing, s'.trace, s'.stepIdx, s'.pins) = (s.standing, s.trace, s.stepIdx, s.pins) := by rfl) :
    Cuts link s f es r := by
  simp only [Prod.mk.injEq] at hs
  obtain ⟨hstanding, htrace, hstep, hpins⟩ := hs
  refine ⟨by rw [heq, h.uncut], fun as => by rw [heq, h.goesOn], htrace ▸ h.trace, hstep ▸ h.step, hpins ▸ h.pins, ?_⟩
  intro n hn
  obtain ⟨e, u, hu, hstop⟩ := h.cut n hn
  refine ⟨e, u, ⟨hstanding ▸ hu.standing, hu.linkOpen, htrace ▸ hu.trace, hstep ▸ hu.step, hpins ▸ hu.pins, hu.line⟩, ?_⟩
  simpa only [heq] using hstop

/-- A part that emits nothing. -/
theorem Cuts.silent (link : Nat → Bool) (h : ∀ as, f (s.answering as) = (f s).answering as)
    (hs : ((f s).state.trace, (f s).state.stepIdx, (f s).state.pins) = (s.trace, s.stepIdx, s.pins)) :
    Cuts link s f [] (f s) := by
  simp only [Prod.mk.injEq] at hs
  obtain ⟨htrace, hstep, hpins⟩ := hs
  exact ⟨h [], h, by simpa using htrace, hstep, hpins, nofun⟩

/-- One transport action, shown as `e'` in the trace when it completes. -/
theorem attempt_cuts {e e' : BusEvent} {a : α} {done : State → Run α}
    (hdone : ∀ as, done (s.answering as) = .ok a (t.answering as)) (hline : e.line = e'.line)
    (ht : (t.trace, t.stepIdx, t.pins) = (s.trace ++ [e'], s.stepIdx + 1, drivePins e' s.pins)) :
    Cuts (fun _ => s.linkOpen) s (fun s => attempt e s done) [e'] (.ok a t) := by
  simp only [Prod.mk.injEq] at ht
  obtain ⟨htrace, hstep, hpins⟩ := ht
  refine ⟨hdone [], hdone, htrace, hstep, hpins, fun n hn => ?_⟩
  obtain rfl : n = 0 := Nat.lt_one_iff.mp hn
  refine ⟨e, s, ⟨rfl, rfl, by simp, rfl, rfl, ?_⟩, fun a w rest ha => ⟨_, _, attempt_stopped ha e s rest done⟩⟩
  intro x hx
  cases hx
  exact hline

end

/-! ## Every part of a request can be cut -/

/-- The part `f` of a request, wherever it begins, can be cut at each of its events, with `link_open` as it was. -/
def Cuttable {α : Type} (f : State → Run α) : Prop := ∀ s, ∃ es r, Cuts (fun _ => s.linkOpen) s f es r

/-- The part `f` of a request leaves what stands alone, and `link_open`. -/
def Stands {α : Type} (f : State → Run α) : Prop :=
  ∀ s, (f s).state.standing = s.standing ∧ (f s).state.linkOpen = s.linkOpen

theorem BusOnly.stands {α : Type} {f : State → Run α} (h : ∀ s, BusOnly s (f s).state) : Stands f :=
  fun s => ⟨(h s).standing, (h s).linkOpen⟩

theorem Stands.bind {α β : Type} {f : State → Run α} {g : α → State → Run β} (hf : Stands f) (hg : ∀ a, Stands (g a)) :
    Stands fun s => (f s).bind g := fun s =>
  Run.state_bind (P := fun t => t.standing = s.standing ∧ t.linkOpen = s.linkOpen) (hf s) fun a t ht =>
    ⟨(hg a t).1.trans ht.1, (hg a t).2.trans ht.2⟩

theorem Cuttable.bind {α β : Type} {f : State → Run α} {g : α → State → Run β} (hf : Cuttable f) (hstands : Stands f)
    (hg : ∀ a, Cuttable (g a)) : Cuttable fun s => (f s).bind g := by
  intro s
  obtain ⟨es, r, h⟩ := hf s
  cases r with
  | ended w t => exact ⟨es, _, h.bind_of_ended⟩
  | ok a t =>
    obtain ⟨hstanding, hlink⟩ : t.standing = s.standing ∧ t.linkOpen = s.linkOpen := by
      have hs := hstands (s.answering [])
      rwa [h.uncut] at hs
    obtain ⟨es', r', h'⟩ := hg a t
    exact ⟨es ++ es', r', by simpa [hlink] using h.bind h' hstanding⟩

/-- A part that emits nothing, and does the same whatever answers are pending. -/
theorem Cuttable.silent {α : Type} {f : State → Run α} (h : ∀ s as, f (s.answering as) = (f s).answering as)
    (hs : ∀ s, ((f s).state.trace, (f s).state.stepIdx, (f s).state.pins) = (s.trace, s.stepIdx, s.pins)) :
    Cuttable f := fun s => ⟨[], f s, .silent _ (h s) (hs s)⟩

theorem Transactional.stands {α : Type} {f : State → Run α} (hf : Transactional f) : Stands f := by
  induction hf with
  | ok a => exact fun _ => ⟨rfl, rfl⟩
  | timeout stage => exact fun _ => ⟨rfl, rfl⟩
  | emit e _ => exact BusOnly.stands (emit_busOnly e)
  | xfer tx => exact BusOnly.stands (xfer_busOnly tx)
  | bind _ _ ihf ihg => exact ihf.bind ihg
  | latch l _ ih => exact fun s => ih { s with latches := l s.latches }
  | store m _ ih => exact fun s => ih { s with sb := m s.sb }
  | reads f _ ih => exact fun s => ih _ _ _ s

/-- Every part that is register transactions and other bus events can be cut at each of them. -/
theorem Transactional.cuttable {α : Type} {f : State → Run α} (hf : Transactional f) : Cuttable f := by
  induction hf with
  | ok a => exact .silent (fun _ _ => rfl) fun _ => rfl
  | timeout stage => exact .silent (fun _ _ => rfl) fun _ => rfl
  | emit e _ => exact fun s => ⟨[e], _, attempt_cuts (t := s.completeEvent e) (fun _ => rfl) rfl rfl⟩
  | xfer tx =>
    intro s
    let rx := (s.device.respond s.params tx s.draws).bytes
    have h := attempt_cuts (s := s.sending tx) (t := (s.sending tx).completeXfer tx) (e := .xfer tx []) (e' := .xfer tx rx)
      (a := rx) (done := fun s => .ok (s.device.respond s.params tx s.draws).bytes (s.completeXfer tx))
      (fun _ => rfl) rfl rfl
    exact ⟨_, _, h.after fun _ => rfl⟩
  | bind hf _ ihf ihg => exact ihf.bind hf.stands ihg
  | latch l _ ih =>
    intro s
    obtain ⟨es, r, h⟩ := ih { s with latches := l s.latches }
    exact ⟨es, r, h.after fun _ => rfl⟩
  | store m _ ih =>
    intro s
    obtain ⟨es, r, h⟩ := ih { s with sb := m s.sb }
    exact ⟨es, r, h.after fun _ => rfl⟩
  | reads f _ ih =>
    intro s
    obtain ⟨es, r, h⟩ := ih s.params s.sb s.geometry s
    exact ⟨es, r, h.after fun _ => rfl⟩

/-! ## Every body can be cut -/

/-- Events without a transfer, which may depend on the parameters. -/
theorem emitAll_transactional {es : Params → List BusEvent} (h : ∀ p, transfersOf (es p) = []) :
    Transactional fun s => emitAll (es s.params) s := by
  refine .readsParams (fun p => emitAll (es p)) fun p => ?_
  have hp := h p
  generalize es p = es at hp
  induction es with
  | nil => exact .ok ()
  | cons e rest ih =>
    rw [← List.singleton_append, transfersOf_append, List.append_eq_nil_iff] at hp
    exact .bind (.emit e hp.1) fun _ => ih hp.2

/-- Such a part, and then an update of the state that emits nothing. -/
theorem Transactional.cuttable_bind {α : Type} {f : State → Run α} (hf : Transactional f) {g : α → State → Run Unit}
    (h : ∀ a s as, g a (s.answering as) = (g a s).answering as)
    (hs : ∀ a s, ((g a s).state.trace, (g a s).state.stepIdx, (g a s).state.pins) = (s.trace, s.stepIdx, s.pins)) :
    Cuttable fun s => (f s).bind g :=
  hf.cuttable.bind hf.stands fun a => .silent (h a) (hs a)

theorem openBody_cuttable : Cuttable openBody := by
  intro s
  cases hopen : s.linkOpen with
  | true =>
    have heq : ∀ as, openBody (s.answering as) = .ok () (s.answering as) := fun _ => if_pos hopen
    exact ⟨[], _, (Cuts.silent (f := fun s => .ok () s) _ (fun _ => rfl) rfl).after heq⟩
  | false =>
    obtain ⟨es, r, h⟩ := (emitAll_transactional (es := openEvents) fun _ => rfl).cuttable_bind
      (g := fun _ s => .ok () { s with linkOpen := true }) (fun _ _ _ => rfl) (fun _ _ => rfl) s
    rw [hopen] at h
    exact ⟨es, r, h.after fun _ => by simp [openBody, State.answering, hopen]⟩

theorem enterBody_cuttable : Cuttable enterBody :=
  (emitAll_transactional (es := enterEvents) fun _ => rfl).cuttable_bind (fun _ _ _ => rfl) fun _ _ => rfl

theorem adoptGeometry_cuttable (v : Word) : Cuttable (adoptGeometry v) := by
  refine .silent (fun s as => ?_) fun s => ?_
  · unfold adoptGeometry State.answering
    dsimp only
    split <;> rfl
  · unfold adoptGeometry
    split <;> rfl

/-- INIT after OPEN's body (R161). -/
def initLinked (s : State) : Run Unit :=
  (enterBody s).bind fun _ s =>
  (regRead s.params.regConfig s).bind fun _ s =>
  (regRead s.params.regConfig s).bind adoptGeometry

theorem initLinked_cuttable : Cuttable initLinked :=
  have hread := readParam_transactional Params.regConfig
  enterBody_cuttable.bind (BusOnly.stands enterBody_busOnly) fun _ =>
    hread.cuttable.bind hread.stands fun _ => hread.cuttable.bind hread.stands adoptGeometry_cuttable

theorem showCachedRaw_cuts (link : Nat → Bool) (s : State) :
    Cuts link s (fun s => .ok () s.showCachedRaw) [] (.ok () s.showCachedRaw) := by
  refine .silent link (fun as => ?_) ?_
  · unfold State.showCachedRaw State.answering
    dsimp only
    split <;> rfl
  · unfold State.showCachedRaw
    split <;> rfl

/-- What OPEN's body leaves (R118). -/
theorem State.opened_shown (s : State) : s.opened.standing = s.standing ∧ s.opened.linkOpen = true ∧
    s.opened.trace = s.trace ++ if s.linkOpen then [] else openEvents s.params := by
  cases hopen : s.linkOpen with
  | true => simp [State.opened_of_open hopen, hopen]
  | false => exact State.opened_of_closed hopen ▸ ⟨rfl, rfl, rfl⟩

/-- INIT can be cut at each of its events; the link is open from OPEN's seventh event on, or all the time (R163). -/
theorem initBody_cuts (s : State) : ∃ es r, Cuts (fun n => s.linkOpen || decide (7 ≤ n)) s initBody es r := by
  cases hinit : s.initialized with
  | true => exact ⟨[], _, (showCachedRaw_cuts _ s).after fun _ => if_pos hinit⟩
  | false =>
    obtain ⟨es, r, h⟩ := openBody_cuttable s
    have hopened : r.answering [] = .ok () (s.answering []).opened := h.uncut.symm.trans (openBody_completes nofun)
    cases r with
    | ended w t => cases hopened
    | ok a t =>
      obtain ⟨hstanding, hlink, htrace⟩ := State.opened_shown (s.answering [])
      rw [← show t.answering [] = _ from (Run.ok.inj hopened).2] at hstanding hlink htrace
      have hes : es = if s.linkOpen then [] else openEvents s.params :=
        List.append_cancel_left (h.trace.symm.trans htrace)
      have hwhen : ∀ n, (if n < es.length then s.linkOpen else t.linkOpen) = (s.linkOpen || decide (7 ≤ n)) := by
        intro n
        rw [show t.linkOpen = true from hlink]
        cases hopen : s.linkOpen with
        | true => simp
        | false =>
          have hlen : es.length = 7 := by rw [hes, hopen]; rfl
          by_cases hn : n < 7
          · simp [hlen, hn]
          · simp [hlen, hn, Nat.le_of_not_lt hn]
      obtain ⟨es', r', h'⟩ := initLinked_cuttable t
      refine ⟨es ++ es', r', ?_⟩
      rw [← funext hwhen]
      refine (h.bind (g := fun _ => initLinked) h' hstanding).after fun as => ?_
      exact if_neg (by simp [State.answering, hinit])

/-- Freeing SB after a transport failure changes no event and no ending (U13). -/
theorem loseSB_cuts {link : Nat → Bool} {s : State} {f : State → Run Unit} {es : List BusEvent} {r : Run Unit}
    (h : Cuts link s f es r) (hr : r.ending ≠ some (.raised .transportFailure)) :
    Cuts link s (fun s => loseSB (f s)) es r := by
  have hlose : ∀ as, loseSB (r.answering as) = r.answering as :=
    fun as => loseSB_of_noFailure (by rwa [Run.ending_answering])
  refine ⟨by rw [h.uncut, hlose], fun as => by rw [h.goesOn, hlose], h.trace, h.step, h.pins, fun n hn => ?_⟩
  obtain ⟨e, u, hu, hstop⟩ := h.cut n hn
  refine ⟨e, u, hu, fun a w rest ha => ?_⟩
  obtain ⟨m, k, heq⟩ := hstop a w rest ha
  rw [heq]
  cases a <;> cases ha <;> exact ⟨_, _, rfl⟩

theorem rdsec_cuttable (lba : Word) : Cuttable (bodyOf (.rdsec lba)) := by
  intro s
  obtain ⟨es, r, h⟩ := (rdsecBody_transactional lba).cuttable s
  have hr := ((rdsecBody_transactional lba).answered (s := s.answering []) nofun).noFailure
  rw [h.uncut, Run.ending_answering] at hr
  exact ⟨es, r, loseSB_cuts h hr⟩

/-- Every body can be cut at each of its events, and only INIT's with another `link_open` than it began with. -/
theorem bodyOf_cuts (i : Instr) (s : State) :
    ∃ es r, Cuts (fun n => s.linkOpen || decide (i = .init ∧ 7 ≤ n)) s (bodyOf i) es r := by
  by_cases hinit : i = .init
  · subst hinit
    simpa [bodyOf] using initBody_cuts s
  · suffices h : Cuttable (bodyOf i) by simpa [hinit] using h s
    cases i with
    | openLink => exact openBody_cuttable
    | closeLink =>
      exact (emitAll_transactional (es := fun _ => closeEvents) fun _ => rfl).cuttable_bind (fun _ _ _ => rfl)
        fun _ _ => rfl
    | enter => exact enterBody_cuttable
    | leave =>
      exact (emitAll_transactional (es := leaveEvents) transfersOf_leaveEvents).cuttable_bind (fun _ _ _ => rfl)
        fun _ _ => rfl
    | rdreg a => exact (regRead_transactional a).cuttable_bind (fun _ _ _ => rfl) fun _ _ => rfl
    | wrreg a v => exact (regWrite_transactional a v).cuttable
    | init => exact absurd rfl hinit
    | rdsec lba => exact rdsec_cuttable lba
    | wrsec lba => exact (wrsecBody_transactional lba).cuttable
    | erase lba => exact (eraseBody_transactional lba).cuttable
    | spiRd a => exact (regRead_transactional a).cuttable_bind (fun _ _ _ => rfl) fun _ _ => rfl
    | spiWr a v => exact (regWrite_transactional a v).cuttable

/-! ## How a cut request ends -/

/-- A failed event leaves the directions, but for its own line's, and with the link closed all of the other lines
(R118, R207; log 10). -/
theorem unsurePins_get {e : BusEvent} {l : ControlLine} (h : e.line ≠ some l) (linkOpen : Bool) (k : Nat) (ps : Pins) :
    ((unsurePins linkOpen e k ps).get l).dir = (ps.get l).dir ∧
      (linkOpen = false → (unsurePins linkOpen e k ps).get l = ps.get l) := by
  cases linkOpen with
  | false => exact ⟨by rw [unsurePins_of_closed h], fun _ => unsurePins_of_closed h k ps⟩
  | true => cases l <;> exact ⟨rfl, nofun⟩

/-- An instruction that is stopped is concluded alike on both ports. -/
theorem concludeOn_ended (p : Port) (w : Ending) (s : State) : concludeOn p (.ended w s) = conclude (.ended w s) := by
  cases p <;> cases w <;> rfl

/-- SB is RDSEC's to write (R27). -/
theorem bodyOf_sb {i : Instr} (h : ∀ lba, i ≠ .rdsec lba) (s : State) : (bodyOf i s).state.sb = s.sb := by
  have hb : BusOnly _ _ := bodyOf_changesOnly i s
  refine hb.sb.trans ?_
  cases i with
  | rdsec lba => exact absurd rfl (h lba)
  | _ => rfl

section
variable {i : Instr} {s t : State} {n : Nat} (hh : s.halted = false) (hready : ready i s = true)
include hh hready

/-- An admitted instruction runs its body whatever answers are pending. -/
theorem exec_answering (as : List Answer) : exec i { s with answers := as } =
    .next (concludeOn i.port (bodyOf i ((s.begin i).answering as))) := by
  have hready' : ready i { s with answers := as } = true := hready ▸ by cases i <;> rfl
  rw [exec_eq, if_neg (by simpa using hh), if_pos hready']
  rfl

/-- An admitted instruction whose event number `n` is not completed is concluded there. -/
theorem exec_cut (ht : exec i { s with answers := [] } = .next t) (hn : n < t.trace.length) :
    ∃ e u, AtEvent (s.linkOpen || decide (i = .init ∧ 7 ≤ n)) (s.begin i) t.trace n e u ∧
      ∀ a w rest, a.stops = some w → ∃ m k, ((∀ lba, i ≠ .rdsec lba) → m = s.sb) ∧
        exec i { s with answers := List.replicate n .completes ++ a :: rest } =
          .next (conclude (.ended w { a.leaves e (u.answering rest) with sb := m, draws := k })) := by
  obtain ⟨es, r, h⟩ := bodyOf_cuts i (s.begin i)
  have htrace : t.trace = es := by
    have hconcluded := ht.symm.trans (exec_answering hh hready [])
    cases hconcluded
    rw [h.uncut, concludeOn_trace, Run.state_answering]
    exact h.trace
  rw [htrace] at hn ⊢
  obtain ⟨e, u, hu, hstop⟩ := h.cut n hn
  refine ⟨e, u, hu, fun a w rest ha => ?_⟩
  obtain ⟨m, k, heq⟩ := hstop a w rest ha
  refine ⟨m, k, fun hi => ?_, by rw [exec_answering hh hready, heq, concludeOn_ended]⟩
  have hsb := bodyOf_sb hi ((s.begin i).answering (List.replicate n .completes ++ a :: rest))
  rwa [heq] at hsb

end

/-- Settles O47: every body can be cut at each of its events, and the three endings say what the cut leaves. -/
theorem cutRequestEmitsPrefix : Obligations.CutRequestEmitsPrefix := by
  intro i s t n rest hh hready ht hn
  obtain ⟨e, u, hu, hcut⟩ := exec_cut hh hready ht hn
  obtain ⟨hinit, hgeom, hseq, hresult, hvalue, hparams, hinputs, hrefusal, hseen⟩ :
    _ ∧ _ ∧ _ ∧ _ ∧ _ ∧ _ ∧ _ ∧ _ ∧ _ := by simpa [State.standing] using hu.standing
  have hemitted : u.trace = t.trace.take n := hu.trace
  refine ⟨?_, ?_, ?_⟩
  · obtain ⟨m, k, hsb, heq⟩ := hcut .fails _ rest rfl
    refine ⟨_, heq, rfl, by simp [conclude], rfl, rfl, ?_, ?_, hinit, hgeom, hvalue, hu.linkOpen, hsb, ?_⟩
    · simp [conclude, Answer.leaves, State.answering, hemitted, hn.le]
    · simp [conclude, Answer.leaves, State.answering, hemitted, hn.le]
    · intro x l hx hl
      have hbefore : (t.trace.take n).foldl (fun ps e => drivePins e ps) s.pins = u.pins := hu.pins.symm
      rw [hbefore]
      obtain ⟨hdir, hclosed⟩ := unsurePins_get (hu.line x hx ▸ hl) u.linkOpen u.draws u.pins
      refine ⟨hdir, fun hlink hn7 => hclosed (hu.linkOpen.trans ?_)⟩
      simp [hlink, hn7]
  · obtain ⟨m, k, -, heq⟩ := hcut .never _ rest rfl
    exact ⟨_, heq, hseq, hu.step.trans (Nat.zero_add n), hresult, hemitted⟩
  · obtain ⟨m, k, -, heq⟩ := hcut .reset _ rest rfl
    refine ⟨_, heq, ?_⟩
    simp [conclude, Answer.leaves, State.answering, State.hardReset, State.resetWith, hparams, hinputs, hrefusal, hseen,
      hemitted]

end Sys2Proof.Machine
end

section
/-! PROOFS. The minimal boot (R234), from what INIT does with a transport that completes. -/

namespace Sys2Proof.Machine

/-- The host's step that serves INIT's request word runs INIT (R99, R234). -/
theorem step_init_word (p : Params) (d : Device) :
    step ((State.resetWith p d).withFetchWord 48 0x000000000007) = exec .init (State.resetWith p d) := by
  have hdecode : decodeRequest 0x000000000007 = .ok .init := decodeRequest_encodeRequest (i := .init) rfl
  exact (stepRunsDecodedInstruction _ [] .init rfl).1 _ rfl hdecode

/-- The word of the minimal boot lies in a fixed cell, so no shift limit refuses it (R143, R234). -/
theorem decodeGeometry_boot_word (limit : Option Nat) :
    decodeGeometry limit 0x00000010 = some ⟨0x00000010, 0, 1, 512, 0x20, 0x400, 0x3E0⟩ :=
  decodeGeometry_of_fixed rfl

/-- Settles O29: no answers are pending after reset, so INIT completes and decodes its second configuration read. -/
theorem minimalBoot : Obligations.MinimalBoot := by
  intro p d tx r1 r2 hread
  have hgeometry : decodeGeometry p.geomShiftLimit (replyValue r2.bytes) =
      some ⟨0x00000010, 0, 1, 512, 0x20, 0x400, 0x3E0⟩ := by
    rw [hread, decodeGeometry_boot_word]
  have hinit := initCompletes (State.resetWith p d) _ rfl rfl nofun hgeometry
  exact ⟨_, (step_init_word p d).trans hinit, rfl, congrArg some hread, rfl, rfl, rfl, rfl⟩

end Sys2Proof.Machine
end

section
/-! PROOFS. The bounds on the number of bus events (R246): counted for every body with a transport that completes, and a
transport that does not complete only cuts the trace short. -/

namespace Sys2Proof.Machine

/-! ## Events and transactions that completed -/

theorem State.afterEvents_length (s : State) (es : List BusEvent) :
    (s.afterEvents es).trace.length = s.trace.length + es.length := List.length_append

/-- A register transaction is four events (R111). -/
theorem State.afterPulse_length (s : State) (tx : List Byte) :
    (s.afterPulse tx).trace.length = s.trace.length + 4 := List.length_append

/-! ## Sector requests, part by part -/

section
variable {p : Params} {m : Memory} {s : State}

theorem pollEvents_length_le {polls : List (List Byte)} (h : polls.length ≤ p.pollMax) :
    (pollEvents p polls).length ≤ 5 * p.pollMax - 1 := by
  cases polls with
  | nil => exact Nat.zero_le _
  | cons rx rest =>
    have hlen := pollEvents_length p (rx :: rest) (List.cons_ne_nil _ _)
    omega

/-- Parts emit at most the events of all their transactions and P_POLL_MAX polls of each (R164). -/
theorem PartsEnd.length_le {parts : List StagePart} {es : List BusEvent} {o : Option Stage}
    (h : PartsEnd p parts es o) :
    es.length ≤ (parts.map fun x => 4 * x.2.length + (5 * p.pollMax - 1)).sum := by
  induction h with
  | nil => exact Nat.le_refl _
  | @ready _ _ _ polls _ _ hpolls _ ih =>
    obtain ⟨_, _, -, hmax, -⟩ := hpolls
    have hlen := pollEvents_length_le hmax
    simp only [List.length_append, transactionEvents_length, List.map_cons, List.sum_cons]
    omega
  | busy hpolls =>
    have hlen := pollEvents_length_le hpolls.1.le
    simp only [List.length_append, transactionEvents_length, List.map_cons, List.sum_cons]
    omega

theorem runOf_state (o : Option Stage) (s : State) : (runOf o s).state = s := by
  cases o <;> rfl

/-- A body that sends parts emits no more than the parts do at most. -/
theorem SendsParts.length_le {K : List StagePart → Prop} {r : Run Unit} (h : SendsParts p K s r) :
    ∃ parts, K parts ∧ r.state.trace.length ≤
      s.trace.length + (parts.map fun x => 4 * x.2.length + (5 * p.pollMax - 1)).sum := by
  obtain ⟨parts, es, o, d, k, l, hK, -, hend, rfl, -⟩ := h
  refine ⟨parts, hK, ?_⟩
  rw [runOf_state, State.sent, List.length_append]
  exact Nat.add_le_add_left hend.length_le _

theorem eraseBody_length_le (h : Serving p m s) (hm : 1 ≤ p.pollMax) (lba : Word) :
    (eraseBody lba s).state.trace.length ≤ s.trace.length + (31 + 5 * p.pollMax) := by
  obtain ⟨_, ⟨r, rfl⟩, hlen⟩ := (eraseBody_sends h lba).length_le
  simp [eraseTransactions] at hlen
  omega

theorem readWordTransactions_length (p : Params) (r : Nat → List Byte) : (readWordTransactions p r).length = 264 := by
  simp [readWordTransactions]

theorem rdsecBody_length_le (h : Serving p m s) (hm : 1 ≤ p.pollMax) (lba : Word) :
    (rdsecBody lba s).state.trace.length ≤ s.trace.length + (1075 + 5 * p.pollMax) := by
  obtain ⟨_, es, o, d, k, l, ⟨r, rfl⟩, -, hend, e, -⟩ := readCommand_sends h lba
  have hcommand := hend.length_le
  simp [readCommandTransactions] at hcommand
  rw [rdsecBody_eq, e]
  cases o with
  | some stage =>
    simp [runOf, State.sent]
    omega
  | none =>
    obtain ⟨a, w, m', d', k', l', e', -⟩ := readSector_stores (h.sent es d k l)
    rw [runOf, Run.bind_ok, e']
    simp [State.sent, transactionEvents_length, readWordTransactions_length]
    omega

theorem wrsecBody_length_le (h : Serving p m s) (hm : 1 ≤ p.pollMax) (lba : Word) :
    (wrsecBody lba s).state.trace.length ≤ s.trace.length + (1112 + 20 * p.pollMax) := by
  obtain ⟨_, ⟨e, r, w, rfl⟩, hlen⟩ := (wrsecBody_sends h lba).length_le
  cases hfirst : firstOfBlock s.geometry lba <;>
    simp [hfirst, wrsecParts, eraseTransactions, writeWordTransactions_length, writeTripletTransactions] at hlen <;>
    omega

end

/-! ## INIT -/

theorem adoptGeometry_trace (v : Word) (s : State) : (adoptGeometry v s).state.trace = s.trace := by
  unfold adoptGeometry
  split <;> rfl

theorem showCachedRaw_trace (s : State) : s.showCachedRaw.trace = s.trace := by
  unfold State.showCachedRaw
  split <;> rfl

/-- INIT's events are OPEN's, ENTER's and those of two configuration reads (R161). -/
theorem initBody_length_le {s : State} (hc : s.TransportCompletes) :
    (initBody s).state.trace.length ≤ s.trace.length + 24 := by
  cases hinit : s.initialized with
  | true =>
    rw [initBody, if_pos hinit, Run.state_ok, showCachedRaw_trace]
    omega
  | false =>
    have hopened : s.opened.trace.length ≤ s.trace.length + 7 := by
      rw [s.opened_shown.2.2]
      cases s.linkOpen <;> simp [openEvents]
    have hread : s.configRead.trace.length = s.opened.trace.length + 9 + 4 + 4 := by
      rw [State.configRead, State.afterPulse_length, State.afterPulse_length]
      exact congrArg (· + 4 + 4) (s.opened.afterEvents_length (enterEvents s.params))
    rw [initBody_completes hinit hc, adoptGeometry_trace]
    omega

/-! ## Every body -/

theorem loseSB_trace (r : Run Unit) : (loseSB r).state.trace = r.state.trace := by
  obtain ⟨-, m, k, hs, -⟩ := loseSB_state r
  rw [hs]

/-- With a transport that completes no body emits more than its bound (R246). -/
theorem bodyOf_length_le_of_completes (i : Instr) {s : State} (hc : s.TransportCompletes)
    (hm : 1 ≤ s.params.pollMax) : (bodyOf i s).state.trace.length ≤ s.trace.length + traceBound s.params i := by
  have hserving : Serving s.params s.sb s := ⟨rfl, rfl, hc⟩
  cases i with
  | openLink =>
    rw [bodyOf, openBody_completes hc, Run.state_ok, s.opened_shown.2.2]
    cases s.linkOpen <;> simp [openEvents, traceBound]
  | closeLink =>
    rw [bodyOf, closeBody_completes hc]
    exact (s.afterEvents_length closeEvents).le
  | enter =>
    rw [bodyOf, enterBody_completes hc]
    exact (s.afterEvents_length (enterEvents s.params)).le
  | leave =>
    rw [bodyOf, leaveBody_completes hc, traceBound, ← List.length_map (leaveEvent s.params)]
    exact (s.afterEvents_length (leaveEvents s.params)).le
  | rdreg a =>
    rw [bodyOf, rdregBody, regRead_completes a hc]
    exact (s.afterPulse_length _).le
  | wrreg a v =>
    rw [bodyOf, regWrite_completes a v hc]
    exact (s.afterPulse_length _).le
  | init => exact initBody_length_le hc
  | rdsec lba =>
    rw [bodyOf, loseSB_trace]
    exact rdsecBody_length_le hserving hm lba
  | wrsec lba => exact wrsecBody_length_le hserving hm lba
  | erase lba => exact eraseBody_length_le hserving hm lba
  | spiRd a =>
    show ((regRead a s).bind _).state.trace.length ≤ _
    rw [regRead_completes a hc]
    exact (s.afterPulse_length _).le
  | spiWr a v =>
    rw [bodyOf, regWrite_completes a v hc]
    exact (s.afterPulse_length _).le

/-! ## A transport that does not complete -/

/-- The pending answers complete every action, or complete some actions and stop the next one (R94). -/
theorem answers_cases (as : List Answer) : (∀ a ∈ as, a = Answer.completes) ∨
    ∃ n a w rest, as = List.replicate n .completes ++ a :: rest ∧ a.stops = some w := by
  induction as with
  | nil => exact .inl nofun
  | cons b as ih =>
    cases b with
    | completes =>
      obtain h | ⟨n, a, w, rest, rfl, ha⟩ := ih
      · exact .inl (by simpa using h)
      · exact .inr ⟨n + 1, a, w, rest, rfl, ha⟩
    | _ => exact .inr ⟨0, _, _, as, rfl, rfl⟩

/-- A part that an answer stops emits no more events than when they all complete: the failed event is one of them
(R207). -/
theorem Cuts.length_le {α : Type} {link : Nat → Bool} {s : State} {f : State → Run α} {es : List BusEvent} {r : Run α}
    (h : Cuts link s f es r) {a : Answer} {w : Ending} (ha : a.stops = some w) (n : Nat) (rest : List Answer) :
    (f (s.answering (List.replicate n .completes ++ a :: rest))).state.trace.length ≤
      s.trace.length + es.length := by
  by_cases hn : n < es.length
  · obtain ⟨e, u, hu, hstop⟩ := h.cut n hn
    obtain ⟨m, k, heq⟩ := hstop a w rest ha
    have hbefore : u.trace.length = s.trace.length + n := by
      rw [hu.trace, List.length_append, List.length_take_of_le hn.le]
    have hleft : (a.leaves e (u.answering rest)).trace.length ≤ u.trace.length + 1 := by
      cases a <;> simp [Answer.leaves, State.answering]
    rw [heq]
    show (a.leaves e (u.answering rest)).trace.length ≤ _
    omega
  · obtain ⟨j, rfl⟩ := Nat.exists_eq_add_of_le (Nat.le_of_not_lt hn)
    rw [List.replicate_add, List.append_assoc, h.goesOn, Run.state_answering, ← List.length_append, ← h.trace]
    exact Nat.le_refl _

/-- Settles O48: an admitted body emits at most the events it emits when they all complete. -/
theorem traceBounds : Obligations.TraceBounds := by
  intro i s t hm h
  obtain ⟨reason, rfl⟩ | ⟨-, -, rfl⟩ := exec_cases h
  · exact Nat.zero_le _
  have hbound : ∀ as, (∀ a ∈ as, a = Answer.completes) →
      (bodyOf i ((s.begin i).answering as)).state.trace.length ≤ traceBound s.params i := fun as has =>
    (bodyOf_length_le_of_completes i (s := (s.begin i).answering as) has hm).trans (Nat.zero_add _).le
  rw [concludeOn_trace]
  obtain hc | ⟨n, a, w, rest, hanswers, ha⟩ := answers_cases s.answers
  · exact hbound s.answers hc
  · obtain ⟨es, r, hcuts⟩ := bodyOf_cuts i (s.begin i)
    have hes : (s.begin i).trace.length + es.length ≤ traceBound s.params i := by
      have huncut := hbound [] nofun
      rw [hcuts.uncut, Run.state_answering] at huncut
      rwa [← List.length_append, ← hcuts.trace]
    refine Nat.le_trans ?_ hes
    have hlen := hcuts.length_le ha n rest
    rwa [← hanswers] at hlen

end Sys2Proof.Machine
end
